-- ==== Sys2Proof/Word.lean ====
section
/-! DEFINITION. The word types of the block: everything on its ports and in its registers is an unsigned number
(`spec/00_scope.md` R12); the two widths that occur again and again get a name here. -/

namespace Sys2Proof

/-- One byte: a byte of a frame (`20_memory.md` R57), and the unit in which an encoded word is laid out. -/
abbrev Byte := BitVec 8

/-- The 40-bit word of a frame, wire bit 0 leftmost (`30_encoding.md` R72). -/
abbrev FrameWord := BitVec 40

end Sys2Proof
end

