-- ==== Sys2Proof/Config.lean ====
section
/-! DEFINITION. What is fixed for one block (`Cfg`, `spec/00_scope.md` R9) and what the environment is free to do
(`Inputs`, `10_state.md` R30): the input ports at one clock edge, and the free inputs of the edges that nothing scripts. -/

namespace Sys2Proof

/-- The configuration record of `00_scope.md` R9. Constant while the block is out of reset; no rule writes it
(`70_reset_and_hazards.md` R240). `ACT_INVERT` is a 0/1 value, so a `Bool`. -/
structure Cfg where
  /-- `TICK_NS`: real duration of a tick; no rule of the block reads it, only the constraint of R9 does. -/
  tickNs : Nat
  /-- `N_START`: tick edges the line is driven low. -/
  nStart : Nat
  /-- `N_SETTLE`: tick edges waited after release. -/
  nSettle : Nat
  /-- `N_RESP`: samples allowed for the sensor to answer. -/
  nResp : Nat
  /-- `N_PLOW`: samples allowed for the presence low half to end. -/
  nPlow : Nat
  /-- `N_PHIGH`: samples allowed for the presence high half to end. -/
  nPhigh : Nat
  /-- `N_BSTART`: samples allowed for a bit's low pulse to end. -/
  nBstart : Nat
  /-- `N_SAMPLE`: tick edges from the rising edge to the data sample. -/
  nSample : Nat
  /-- `N_BEND`: samples allowed for the line to be low again after the data sample. -/
  nBend : Nat
  /-- `CNT_W`: width in bits of `cnt`. -/
  cntW : Nat
  /-- `RAW_W`: width in bits of port `raw`. -/
  rawW : Nat
  /-- `MOIST_ON_TH`, percent. -/
  moistOnTh : Nat
  /-- `MOIST_OFF_TH`, percent. -/
  moistOffTh : Nat
  /-- `RH_ON_LIMIT`, percent. -/
  rhOnLimit : Nat
  /-- `RH_OFF_LIMIT`, percent. -/
  rhOffLimit : Nat
  /-- `ACT_INVERT`: the indicator output is active low. -/
  actInvert : Bool
deriving DecidableEq, Repr

/-- The column "default" of `00_scope.md` R9, the configuration DEFAULT of `95_test_vectors.md`. -/
def Cfg.default : Cfg :=
  { tickNs := 1000, nStart := 18000, nSettle := 25, nResp := 1, nPlow := 100, nPhigh := 100, nBstart := 100,
    nSample := 49, nBend := 100, cntW := 16, rawW := 12, moistOnTh := 35, moistOffTh := 45, rhOnLimit := 80,
    rhOffLimit := 85, actInvert := false }

/-- The configuration TINY of `95_test_vectors.md`. DESIGN CHOICE (log entry 2): its `TICK_NS` is taken as 9 ms, the
least value with which its `N_START = 2` meets the constraint of R9 on the start pulse; no rule reads `TICK_NS`. -/
def Cfg.tiny : Cfg :=
  { Cfg.default with tickNs := 9000000, nStart := 2, nSettle := 1, nResp := 1, nPlow := 4, nPhigh := 4,
                     nBstart := 3, nSample := 2, nBend := 4 }

/-- The values on the input ports at one rising edge of `clk` (`10_state.md` R30; `clk` itself is the edge).
`raw` is the number the environment puts on the port; the port has `RAW_W` bits (`Machine.rawPort`). -/
structure Inputs where
  rst : Bool
  tick : Bool
  start : Bool
  raw : Nat
  /-- `dq_i`: level of the one-wire line, `true` = high. -/
  dq : Bool
deriving DecidableEq, Repr, Inhabited

/-- FREE VALUE (log entry 1). What the environment presents at clock edge number `n` when nothing scripts that edge:
`00_scope.md` R7 says a model "takes the environment's inputs at each step as free inputs". No body: nothing can be
proved of it. -/
opaque freeInputs : Nat → Inputs

end Sys2Proof
end

