-- ==== Sys2Proof/Syntax.lean ====
section
/-! DEFINITION. One constructor per row of `spec/opcode_table.json` (`30_encoding.md` R87). The block has no instruction
set (R1): its "instructions" are the encoded things of the table, in the table's formats. Every operand is a bit vector of
exactly its field's width, so no ill-formed term exists. -/

namespace Sys2Proof

/-- The operations of the opcode table, in the table's order. -/
inductive Instr where
  /-- CMD READ: `start = 1` at a tick edge (R79, R112). -/
  | read
  /-- CMD NOP: `start = 0` at a tick edge (R79, R112). -/
  | nop
  /-- SYMBOL BIT0: the data sample is low (R71, R121). -/
  | bit0
  /-- SYMBOL BIT1: the data sample is high (R71, R121). -/
  | bit1
  /-- FRAME40 FRAME: humidity integer and fraction, temperature integer and fraction, checksum (R72). -/
  | frame (h f t g c : Byte)
  /-- RES12 RES.NONE: no read has completed (R76). -/
  | resNone
  /-- RES12 RES.VALID: the read completed with `Valid(h)` (R76, R124). -/
  | resValid (h : Byte)
  /-- RES12 RES.NoResponse (R201). -/
  | resNoResponse
  /-- RES12 RES.PresenceLowTimeout (R202). -/
  | resPresenceLowTimeout
  /-- RES12 RES.PresenceHighTimeout (R203). -/
  | resPresenceHighTimeout
  /-- RES12 RES.BitStartTimeout (R204). -/
  | resBitStartTimeout
  /-- RES12 RES.BitEndTimeout (R205). -/
  | resBitEndTimeout
  /-- RES12 RES.ChecksumMismatch (R206). -/
  | resChecksumMismatch
  /-- PHASE4 IDLE (R112). -/
  | idle
  /-- PHASE4 START_LOW (R114). -/
  | startLow
  /-- PHASE4 START_SETTLE (R115). -/
  | startSettle
  /-- PHASE4 PRES_RESP (R117). -/
  | presResp
  /-- PHASE4 PRES_LOW (R118). -/
  | presLow
  /-- PHASE4 PRES_HIGH (R119). -/
  | presHigh
  /-- PHASE4 BIT_WAIT (R120). -/
  | bitWait
  /-- PHASE4 BIT_DELAY (R121). -/
  | bitDelay
  /-- PHASE4 BIT_END (R122). -/
  | bitEnd
  /-- PHASE4 DONE (R124; leaves by R112). -/
  | done
  /-- PHASE4 FAILED (R125; leaves by R112). -/
  | failed
  /-- DECIDE17 DECIDE.IDLE.VALID (R161). -/
  | decideIdleValid (m : BitVec 7) (h : Byte)
  /-- DECIDE17 DECIDE.WATERING.VALID (R162). -/
  | decideWateringValid (m : BitVec 7) (h : Byte)
  /-- DECIDE17 DECIDE.IDLE.INVALID (R163); `x` is the ignored field. -/
  | decideIdleInvalid (m : BitVec 7) (x : Byte)
  /-- DECIDE17 DECIDE.WATERING.INVALID (R164); `x` is the ignored field. -/
  | decideWateringInvalid (m : BitVec 7) (x : Byte)
  /-- FUNC SCALE: the raw sample, 12 bits (R100). -/
  | scale (r : BitVec 12)
  /-- FUNC APPLY: the watering bit (R180). -/
  | apply (w : BitVec 1)
deriving DecidableEq, Repr

/-- The formats of `30_encoding.md` R87. FUNC holds two operand words of different widths, so it is two formats here. -/
inductive Format where
  | cmd | symbol | frame40 | res12 | phase4 | decide17 | scaleFunc | applyFunc
deriving DecidableEq, Repr

/-- The format of each operation's row. -/
def Instr.format : Instr → Format
  | .read | .nop => .cmd
  | .bit0 | .bit1 => .symbol
  | .frame _ _ _ _ _ => .frame40
  | .resNone | .resValid _ | .resNoResponse | .resPresenceLowTimeout | .resPresenceHighTimeout
  | .resBitStartTimeout | .resBitEndTimeout | .resChecksumMismatch => .res12
  | .idle | .startLow | .startSettle | .presResp | .presLow | .presHigh | .bitWait | .bitDelay | .bitEnd
  | .done | .failed => .phase4
  | .decideIdleValid _ _ | .decideWateringValid _ _ | .decideIdleInvalid _ _
  | .decideWateringInvalid _ _ => .decide17
  | .scale _ => .scaleFunc
  | .apply _ => .applyFunc

/-- The key `width` of the table's rows, per format. -/
def Format.width : Format → Nat
  | .cmd => 1
  | .symbol => 1
  | .frame40 => 40
  | .res12 => 12
  | .phase4 => 4
  | .decide17 => 17
  | .scaleFunc => 12
  | .applyFunc => 1

/-- The formats in the order in which their first rows stand in the table. -/
def Format.tableOrder : List Format :=
  [.cmd, .symbol, .frame40, .res12, .phase4, .decide17, .scaleFunc, .applyFunc]

end Sys2Proof
end

