-- ==== Sys2Proof/WellFormed.lean ====
section
/-! DEFINITION. The two checks of the model: a configuration that breaks a constraint of `00_scope.md` R9 is refused (R11,
`93_implementation_defined.md` U1), and a word with bits above its format's width is no word of that format (R87).
A term of `Instr` needs no check: its operands are bit vectors of their fields' widths (U2, "refuse by construction"). -/

namespace Sys2Proof

/-- One count `N_*` of R9: at least 1 and at most `2^CNT_W`. -/
def Cfg.countOk (c : Cfg) (n : Nat) : Bool := decide (1 ≤ n) && decide (n ≤ 2 ^ c.cntW)

/-- The constraints of the table of `00_scope.md` R9, row by row (`ACT_INVERT` is 0 or 1 by its type).

DESIGN CHOICE (log entry 22): of the row `N_SAMPLE`, "at least 1; see R236", the number 1 is taken as the constraint and the
sampling window of `70_reset_and_hazards.md` R236 is not: a configuration outside the window is legal here. -/
def Cfg.legal (c : Cfg) : Bool :=
  decide (0 < c.tickNs)
    && c.countOk c.nStart && decide (18000000 ≤ c.nStart * c.tickNs)
    && c.countOk c.nSettle && c.countOk c.nResp && c.countOk c.nPlow && c.countOk c.nPhigh
    && c.countOk c.nBstart && c.countOk c.nSample && c.countOk c.nBend
    && decide (12 ≤ c.rawW)
    && decide (c.moistOnTh ≤ 127) && decide (c.moistOffTh ≤ 127)
    && decide (c.rhOnLimit ≤ 255) && decide (c.rhOffLimit ≤ 255)

/-- A number is a word of a format when it has no bit above the format's width. -/
def Format.fits (f : Format) (w : Nat) : Bool := decide (w < 2 ^ f.width)

end Sys2Proof
end

