-- ==== Sys2Proof/Decode.lean ====
section
/-! DEFINITION. The decoder, total on any bytes and rejecting by name, and after it the encoder, both written from
`30_encoding.md` R71, R72, R76 to R81, R87 and the patterns of `opcode_table.json`.

A word is laid out as whole bytes, least significant byte first (log entry 4: the block stores no words, the layout is
the model's). Words of different formats overlap, so the decoder takes the format; `decodeTableWord`, which is given none,
takes the first format of the table's order that has such a word (log entry 5). -/

namespace Sys2Proof

/-- Why a decoder rejects. -/
inductive Reject where
  /-- Fewer bytes than the format's word has. -/
  | tooShort
  /-- More bytes than the format's word has. -/
  | tooLong
  /-- A bit above the format's width is set. -/
  | bitsAboveWidth
  /-- A 12-bit word that is none of the three forms of R76 (R82 (b)). -/
  | reservedResult
  /-- A phase code 11 to 15 (R82 (a)). -/
  | reservedPhase
deriving DecidableEq, Repr

/-- How many whole bytes a word of the format takes. -/
def Format.nbytes (f : Format) : Nat := (f.width + 7) / 8

/-- The low `k` bytes of a number, least significant first. -/
def leBytes : Nat → Nat → List Byte
  | 0, _ => []
  | k + 1, w => BitVec.ofNat 8 w :: leBytes k (w / 256)

/-- The number whose bytes, least significant first, are given. -/
def leWord : List Byte → Nat
  | [] => 0
  | b :: bs => b.toNat + 256 * leWord bs

/-- The slice `w[lo + n - 1 : lo]`, an unsigned number (R12). -/
def slice (w lo n : Nat) : Nat := w / 2 ^ lo % 2 ^ n

/-- The same slice as an operand of `n` bits. -/
def field (w lo n : Nat) : BitVec n := BitVec.ofNat n (slice w lo n)

/-- RES12 (R76, R77): `{valid_o, err_o[2:0], hum_o[7:0]}`. -/
def decodeResult (w : Nat) : Except Reject Instr :=
  if slice w 8 4 = 8 then .ok (.resValid (field w 0 8))
  else if slice w 0 8 = 0 then
    match slice w 8 4 with
    | 0 => .ok .resNone
    | 1 => .ok .resNoResponse
    | 2 => .ok .resPresenceLowTimeout
    | 3 => .ok .resPresenceHighTimeout
    | 4 => .ok .resBitStartTimeout
    | 5 => .ok .resBitEndTimeout
    | 6 => .ok .resChecksumMismatch
    | _ => .error .reservedResult
  else .error .reservedResult

/-- PHASE4 (R78). -/
def decodePhase (w : Nat) : Except Reject Instr :=
  match w with
  | 0 => .ok .idle
  | 1 => .ok .startLow
  | 2 => .ok .startSettle
  | 3 => .ok .presResp
  | 4 => .ok .presLow
  | 5 => .ok .presHigh
  | 6 => .ok .bitWait
  | 7 => .ok .bitDelay
  | 8 => .ok .bitEnd
  | 9 => .ok .done
  | 10 => .ok .failed
  | _ => .error .reservedPhase

/-- DECIDE17 (R81): `{watering, valid, moist[6:0], hum[7:0]}`. -/
def decodeDecide (w : Nat) : Instr :=
  match slice w 15 2 with
  | 0 => .decideIdleInvalid (field w 8 7) (field w 0 8)
  | 1 => .decideIdleValid (field w 8 7) (field w 0 8)
  | 2 => .decideWateringInvalid (field w 8 7) (field w 0 8)
  | _ => .decideWateringValid (field w 8 7) (field w 0 8)

/-- The operation a word of a format stands for. -/
def decodeWord (f : Format) (w : Nat) : Except Reject Instr :=
  if f.fits w then
    match f with
    | .cmd => .ok (if w = 1 then .read else .nop)
    | .symbol => .ok (if w = 1 then .bit1 else .bit0)
    | .frame40 => .ok (.frame (field w 32 8) (field w 24 8) (field w 16 8) (field w 8 8) (field w 0 8))
    | .res12 => decodeResult w
    | .phase4 => decodePhase w
    | .decide17 => .ok (decodeDecide w)
    | .scaleFunc => .ok (.scale (field w 0 12))
    | .applyFunc => .ok (.apply (field w 0 1))
  else .error .bitsAboveWidth

/-- The decoder: exactly the bytes of one word of the format. -/
def decode (f : Format) (bs : List Byte) : Except Reject Instr :=
  if bs.length < f.nbytes then .error .tooShort
  else if f.nbytes < bs.length then .error .tooLong
  else decodeWord f (leWord bs)

/-- The word of an operation, from the key `encoding` of its row. -/
def encodeWord : Instr → Nat
  | .read => 1
  | .nop => 0
  | .bit0 => 0
  | .bit1 => 1
  | .frame h f t g c =>
      h.toNat * 2 ^ 32 + f.toNat * 2 ^ 24 + t.toNat * 2 ^ 16 + g.toNat * 2 ^ 8 + c.toNat
  | .resNone => 0x000
  | .resValid h => 0x800 + h.toNat
  | .resNoResponse => 0x100
  | .resPresenceLowTimeout => 0x200
  | .resPresenceHighTimeout => 0x300
  | .resBitStartTimeout => 0x400
  | .resBitEndTimeout => 0x500
  | .resChecksumMismatch => 0x600
  | .idle => 0
  | .startLow => 1
  | .startSettle => 2
  | .presResp => 3
  | .presLow => 4
  | .presHigh => 5
  | .bitWait => 6
  | .bitDelay => 7
  | .bitEnd => 8
  | .done => 9
  | .failed => 10
  | .decideIdleValid m h => 0x08000 + m.toNat * 2 ^ 8 + h.toNat
  | .decideWateringValid m h => 0x18000 + m.toNat * 2 ^ 8 + h.toNat
  | .decideIdleInvalid m x => 0x00000 + m.toNat * 2 ^ 8 + x.toNat
  | .decideWateringInvalid m x => 0x10000 + m.toNat * 2 ^ 8 + x.toNat
  | .scale r => r.toNat
  | .apply w => w.toNat

/-- The encoder: the bytes of an operation's word, in its format. -/
def encode (i : Instr) : List Byte := leBytes i.format.nbytes (encodeWord i)

/-- The keys `match` and `mask` of an operation's row: a word belongs to the row iff `w and mask = match` (R87). -/
def Instr.rowMatch : Instr → Nat × Nat
  | .read => (0x1, 0x1)
  | .nop => (0x0, 0x1)
  | .bit0 => (0x0, 0x1)
  | .bit1 => (0x1, 0x1)
  | .frame _ _ _ _ _ => (0x0, 0x0)
  | .resNone => (0x000, 0xFFF)
  | .resValid _ => (0x800, 0xF00)
  | .resNoResponse => (0x100, 0xFFF)
  | .resPresenceLowTimeout => (0x200, 0xFFF)
  | .resPresenceHighTimeout => (0x300, 0xFFF)
  | .resBitStartTimeout => (0x400, 0xFFF)
  | .resBitEndTimeout => (0x500, 0xFFF)
  | .resChecksumMismatch => (0x600, 0xFFF)
  | .idle => (0x0, 0xF)
  | .startLow => (0x1, 0xF)
  | .startSettle => (0x2, 0xF)
  | .presResp => (0x3, 0xF)
  | .presLow => (0x4, 0xF)
  | .presHigh => (0x5, 0xF)
  | .bitWait => (0x6, 0xF)
  | .bitDelay => (0x7, 0xF)
  | .bitEnd => (0x8, 0xF)
  | .done => (0x9, 0xF)
  | .failed => (0xA, 0xF)
  | .decideIdleValid _ _ => (0x08000, 0x18000)
  | .decideWateringValid _ _ => (0x18000, 0x18000)
  | .decideIdleInvalid _ _ => (0x00000, 0x18000)
  | .decideWateringInvalid _ _ => (0x10000, 0x18000)
  | .scale _ => (0x000, 0x000)
  | .apply _ => (0x0, 0x0)

/-- Whole bytes that hold `nbits` bits. -/
def bytesFor (nbits : Nat) : Nat := (nbits + 7) / 8

/-- The operation the decoder reads from a word that is given with no format: the first format of the table's order
whose words take that many bytes and that has this word. DESIGN CHOICE (log entry 5). -/
def decodeTableWord (nbits w : Nat) : Option Instr :=
  if w < 2 ^ (8 * bytesFor nbits) then
    Format.tableOrder.findSome? fun f =>
      if f.nbytes = bytesFor nbits then (decode f (leBytes f.nbytes w)).toOption else none
  else none

end Sys2Proof
end

