-- ==== Sys2Proof/Machine/State.lean ====
section
/-! DEFINITION. The state of a run as plain data, in three parts. `Regs` is the state of the BLOCK: exactly the eight registers
of `10_state.md` R20. `Bench` is what stands around the block, on the environment's side of its ports (R7): the model's own,
no storage of the block. The configuration is the constant record of R9. `State.reset` is the reset state of R39. -/

namespace Sys2Proof.Machine

/-- The eleven phases of `10_state.md` R21, in protocol order; codes 11 to 15 do not exist (R82 (a), U2). -/
inductive Phase where
  | idle | startLow | startSettle | presResp | presLow | presHigh | bitWait | bitDelay | bitEnd | done | failed
deriving DecidableEq, Repr

/-- The six errors of R200, "enumerated, ordered by the protocol phase in which they occur". -/
inductive OneWireError where
  | noResponse | presenceLowTimeout | presenceHighTimeout | bitStartTimeout | bitEndTimeout | checksumMismatch
deriving DecidableEq, Repr

/-- HumidityReading (R31 (2)); `Valid` carries the whole received byte (R75, `90_conflicts.md` C3). -/
inductive Reading where
  | valid (h : Byte)
  | invalid (e : OneWireError)
deriving DecidableEq, Repr

/-- The complete architectural state of CORE: "a record of exactly these fields" (`10_state.md` R20). -/
structure Regs where
  /-- `phase`, 4 bits (R21). -/
  phase : Phase
  /-- `cnt`, `CNT_W` bits, an unsigned number (R22). -/
  cnt : Nat
  /-- `bitidx`, 6 bits holding 0 to 39 (R23); 40 to 63 are excluded by type (U2). -/
  bitidx : Fin 40
  /-- `frame`, 40 bits (R24). -/
  frame : FrameWord
  /-- `hum`, 8 bits (R25). -/
  hum : Byte
  /-- `err`, 3 bits (R26, codes of R77): `none` is code 0, "no error recorded"; code 7 is excluded by type (U2). -/
  err : Option OneWireError
  /-- `moist`, 7 bits (R27). -/
  moist : BitVec 7
  /-- `watering`, 1 bit (R28): `true` is `Watering`. -/
  watering : Bool
deriving DecidableEq, Repr

/-- MODEL'S OWN: the environment's side of the ports. No rule reads `act`; the rules read `env` and `edge` only as the input
ports of the coming edge (`State.inputs`). -/
structure Bench where
  /-- Log entry 7: the level that last stood on `act_o`, as the environment saw it. It is no memory of the sink, which has
  none (`43_actuation_sink.md` R181): the port itself is `State.actO`, a function of `watering`. -/
  act : Bool
  /-- Log entry 1: the inputs scripted for the coming clock edges, the next edge first. -/
  env : List Inputs
  /-- Log entry 1: the number of the next clock edge, which selects its free inputs when `env` is empty. -/
  edge : Nat
deriving DecidableEq, Repr

/-- What a step is a function of: the block's registers, the environment's side, and the constants of the block. -/
structure State extends Regs, Bench where
  /-- The constants of the block (R9; log entry 3). Not a register: no rule writes it (R240). -/
  cfg : Cfg
deriving DecidableEq, Repr

/-- No behaviour of the block is a fault: the six errors are ordinary results (`60_exceptions.md` R222,
`93_implementation_defined.md`, the paragraph after U15). So there is no constructor, and no step can fault. Safe. -/
inductive Fault where
deriving DecidableEq, Repr

/-- Why the model gives no next state. -/
inductive Refusal where
  /-- An instruction without a meaning yet. Raised by an arm of `exec` only; no arm raises it. Safe. -/
  | notModelled (mnemonic : String)
  /-- The configuration breaks a constraint of R9, so "no rule gives such a block a behaviour, and a model refuses it"
  (R11, U1). Raised by `step` and by every meaning, through `Machine.underLegal`. Safe: the model stops. -/
  | illegalConfig
  /-- The fetched phase word does not decode. Raised by `step`; never, since `Phase` holds no reserved code. Safe. -/
  | noSuchPhase (why : Reject)
deriving DecidableEq, Repr

/-- The machine right after reset (R39): every register 0, `phase = IDLE`, `act_o = ACT_INVERT`; the configuration is the
table's default (R9), nothing is scripted and no edge has passed. -/
def State.reset : State :=
  { cfg := Cfg.default, phase := .idle, cnt := 0, bitidx := 0, frame := 0, hum := 0, err := none, moist := 0,
    watering := false, act := Cfg.default.actInvert, env := [], edge := 0 }

end Sys2Proof.Machine
end

