-- ==== Sys2Proof/Machine/Operands.lean ====
section
/-! DEFINITION. What a rule reads: the input ports at this clock edge (`10_state.md` R30), the line sample
(`20_memory.md` R51), the bytes of the frame (R65), the operand word of `decide` (`30_encoding.md` R81), and the phase code
in the place of a fetched instruction (`10_state.md` R36). -/

namespace Sys2Proof.Machine

/-- The input ports at the coming clock edge: what is scripted for it, or else the free inputs of that edge (R7). -/
def State.inputs (s : State) : Inputs :=
  match s.env with
  | i :: _ => i
  | [] => freeInputs s.edge

/-- `LineSample()` (R15, R51): the level of `dq_i`, `true` = high; reading has no side effect. -/
def lineSample (s : State) : Bool := s.inputs.dq

/-- Port `start`. -/
def startPort (s : State) : Bool := s.inputs.start

/-- Port `raw`: `RAW_W` bits, unsigned (R30). -/
def rawPort (s : State) : Nat := s.inputs.raw % 2 ^ s.cfg.rawW

/-- `byte(f, k)` of R65: `f[39 - 8k : 32 - 8k]`. -/
def frameByte (f : FrameWord) (k : Nat) : Byte := f.extractLsb' (32 - 8 * k) 8

/-- The frame whose bytes, first received first, are given (R72). -/
def frameOf (b0 b1 b2 b3 b4 : Byte) : FrameWord := b0 ++ b1 ++ b2 ++ b3 ++ b4

/-- `{frame[38:0], s}` of R56: the shift register with one more wire bit. -/
def shiftIn (f : FrameWord) (b : Bool) : FrameWord := f.extractLsb' 0 39 ++ BitVec.ofBool b

/-- `checksum_ok(f)` of R123: the sum of bytes 0 to 3, over the naturals, mod 256, equals byte 4. -/
def checksumOk (f : FrameWord) : Bool :=
  decide (((frameByte f 0).toNat + (frameByte f 1).toNat + (frameByte f 2).toNat + (frameByte f 3).toNat) % 256
    = (frameByte f 4).toNat)

/-- The phase codes of R78. -/
def Phase.code : Phase → BitVec 4
  | .idle => 0
  | .startLow => 1
  | .startSettle => 2
  | .presResp => 3
  | .presLow => 4
  | .presHigh => 5
  | .bitWait => 6
  | .bitDelay => 7
  | .bitEnd => 8
  | .done => 9
  | .failed => 10

/-- The error codes of R77; 0 is "no error recorded". -/
def errCode : Option OneWireError → BitVec 3
  | none => 0
  | some .noResponse => 1
  | some .presenceLowTimeout => 2
  | some .presenceHighTimeout => 3
  | some .bitStartTimeout => 4
  | some .bitEndTimeout => 5
  | some .checksumMismatch => 6

/-- What stands where an instruction would be fetched: the word of register `phase`, which "decides the next action"
(R36), as one byte. -/
def State.fetchWord (s : State) : List Byte := leBytes Format.phase4.nbytes s.phase.code.toNat

/-- The validity bit of a reading. -/
def Reading.isValid : Reading → Bool
  | .valid _ => true
  | .invalid _ => false

/-- The humidity byte of a reading; 0 when there is none (R207: `hum <- 0`). -/
def Reading.humidity : Reading → Byte
  | .valid h => h
  | .invalid _ => 0

end Sys2Proof.Machine
end

