-- ==== Sys2Proof/Machine/Ops.lean ====
section
/-! DEFINITION. The shared operations: the pure functions `scale`, `decide`, `apply`, the bounded poll `Wait`, the fixed
delay, accepting a read (which is also the return from an error), ending one well, and `raise E`, the ONE operation that
takes an error (`60_exceptions.md` R207). Each assigns exactly what its rule assigns; the other registers hold (R15). -/

namespace Sys2Proof.Machine

/-! ### The pure functions -/

/-- `scale(r)` of R100: `min(100, (200 * r + 4095) div 8190)`. -/
def scaleRaw (r : Nat) : Nat := min 100 ((200 * r + 4095) / 8190)

/-- `decide(0, m, rd)` of R160: onset, from `Idle` (R161, R163). -/
def onset (c : Cfg) (m : Nat) : Reading → Bool
  | .valid h => decide (m < c.moistOnTh) && decide (h.toNat < c.rhOnLimit)
  | .invalid _ => decide (m < c.moistOnTh)

/-- The release condition of R160, from `Watering` (R162, R164). -/
def release (c : Cfg) (m : Nat) : Reading → Bool
  | .valid h => decide (m > c.moistOffTh) || decide (h.toNat > c.rhOffLimit)
  | .invalid _ => decide (m > c.moistOffTh)

/-- `decide(w, m, rd)` of R160: the next WateringState; only the current state's exit condition is looked at (R165). -/
def decideWatering (c : Cfg) (w : Bool) (m : Nat) (rd : Reading) : Bool :=
  if w then !(release c m rd) else onset c m rd

/-- `apply(w) = w xor ACT_INVERT` of R180. -/
def applySink (c : Cfg) (w : Bool) : Bool := w ^^ c.actInvert

/-! ### The model's guard -/

/-- A configuration outside R9 has no behaviour and is refused (R11, U1); every other one runs. -/
def underLegal (s t : State) : Host.Outcome State Fault Refusal :=
  if s.cfg.legal then .next t else .refused .illegalConfig

/-! ### Register updates -/

/-- `cnt <- cnt + 1`, in a register of `CNT_W` bits (R22; in reachable states it never wraps, U3). -/
def bump (s : State) : State := { s with cnt := (s.cnt + 1) % 2 ^ s.cfg.cntW }

/-- `phase <- p; cnt <- 0`. -/
def goto (p : Phase) (s : State) : State := { s with phase := p, cnt := 0 }

/-- `moist <- scale(r)` (R186). -/
def latchMoist (r : Nat) (s : State) : State := { s with moist := BitVec.ofNat 7 (scaleRaw r) }

/-- `watering <- v` (R187). -/
def latchWatering (v : Bool) (s : State) : State := { s with watering := v }

/-- `watering <- decide(watering, moist, rd)` (R187), the right-hand side on the state before the edge. -/
def finish (rd : Reading) (s : State) : State :=
  latchWatering (decideWatering s.cfg s.watering s.moist.toNat rd) s

/-- The level of `w` stands on `act_o`, where the environment sees it (R180; log entry 7). No register is written. -/
def driveAct (w : Bool) (s : State) : State := { s with act := applySink s.cfg w }

/-! ### Accepting a read, ending it well, ending it with an error -/

/-- R112 with R186: the previous result is withdrawn, the moisture of raw value `r` is latched, `START_LOW` begins. It is
also the only return from `FAILED` other than reset (R208). -/
def accept (r : Nat) (s : State) : State :=
  latchMoist r { s with phase := .startLow, cnt := 0, bitidx := 0, frame := 0, hum := 0, err := none }

/-- R124: completing a read with `Valid(h)`. -/
def complete (h : Byte) (s : State) : State :=
  finish (.valid h) { s with phase := .done, hum := h, err := none, cnt := 0 }

/-- `raise E` of R207, the one error entry. `bitidx` and `frame` hold; nothing else is saved. -/
def raise (e : OneWireError) (s : State) : State :=
  finish (.invalid e) { s with phase := .failed, err := some e, hum := 0, cnt := 0 }

/-- R123: validation, at the edge at which the last `BIT_END` sees the line low. -/
def validate (s : State) : State :=
  if checksumOk s.frame then complete (frameByte s.frame 0) s else raise .checksumMismatch s

/-! ### The two forms of a busy phase -/

/-- `Wait(level, N, next, E)` of R116; `next` includes its `cnt <- 0`. The awaited level is tested before the bound. -/
def wait (level : Bool) (n : Nat) (next : State → State) (e : OneWireError) (s : State) : State :=
  if lineSample s = level then next s else if s.cnt = n - 1 then raise e s else bump s

/-- The fixed delay of R114, R115 and R121: leave at the edge that finds `cnt = N - 1`. -/
def delay (n : Nat) (next : State → State) (s : State) : State :=
  if s.cnt = n - 1 then next s else bump s

/-- The data-sample edge of R121: shift the sample in, go to `BIT_END`. -/
def takeSample (b : Bool) (s : State) : State :=
  { s with frame := shiftIn s.frame b, phase := .bitEnd, cnt := 0 }

/-- `next` of R122: the next bit, or validation after bit 39. -/
def nextBit (s : State) : State :=
  if h : s.bitidx.val < 39 then
    { s with bitidx := ⟨s.bitidx.val + 1, Nat.succ_lt_succ h⟩, phase := .bitWait, cnt := 0 }
  else validate s

/-! ### The transition rule of each phase at a tick edge -/

/-- R112, in a rest phase, for a given level of `start`. -/
def restRule (start : Bool) (s : State) : State := if start then accept (rawPort s) s else s

/-- R114. -/
def startLowRule (s : State) : State := delay s.cfg.nStart (goto .startSettle) s

/-- R115. -/
def startSettleRule (s : State) : State := delay s.cfg.nSettle (goto .presResp) s

/-- R117. -/
def presRespRule (s : State) : State := wait false s.cfg.nResp (goto .presLow) .noResponse s

/-- R118. -/
def presLowRule (s : State) : State := wait true s.cfg.nPlow (goto .presHigh) .presenceLowTimeout s

/-- R119. -/
def presHighRule (s : State) : State := wait false s.cfg.nPhigh (goto .bitWait) .presenceHighTimeout s

/-- R120. The poll counts its own samples: low slots that `BIT_DELAY` and `BIT_END` used up after a 0 bit are not counted
again, although R130 writes its bound for the whole low run (log entry 21). -/
def bitWaitRule (s : State) : State := wait true s.cfg.nBstart (goto .bitDelay) .bitStartTimeout s

/-- R121. -/
def bitDelayRule (s : State) : State := delay s.cfg.nSample (takeSample (lineSample s)) s

/-- R122. The low sample that ends it is consumed (R116), so after a 0 bit up to `N_SAMPLE + 2 - h` low slots are gone before
`BIT_WAIT` polls (log entry 21). -/
def bitEndRule (s : State) : State := wait false s.cfg.nBend nextBit .bitEndTimeout s

/-- The tick edge with a given level of `start`: the rule of the current phase (R111); a busy phase does not read
`start` (R113). -/
def tickRule (start : Bool) (s : State) : State :=
  match s.phase with
  | .idle => restRule start s
  | .startLow => startLowRule s
  | .startSettle => startSettleRule s
  | .presResp => presRespRule s
  | .presLow => presLowRule s
  | .presHigh => presHighRule s
  | .bitWait => bitWaitRule s
  | .bitDelay => bitDelayRule s
  | .bitEnd => bitEndRule s
  | .done => restRule start s
  | .failed => restRule start s

/-! ### The clock edge around an instruction -/

/-- R230: the eight registers take their reset values. -/
def resetRegs (s : State) : State :=
  { s with phase := .idle, cnt := 0, bitidx := 0, frame := 0, hum := 0, err := none, moist := 0, watering := false }

/-- The end of every clock edge: the sink shows `watering` on `act_o` (R180, R185 (4)), and this edge's inputs are
used up. -/
def endEdge (s : State) : State :=
  { driveAct s.watering s with env := s.env.tail, edge := s.edge + 1 }

end Sys2Proof.Machine
end

