-- ==== Sys2Proof/Machine/Command.lean ====
section
/-! DEFINITION. Family CMD (`30_encoding.md` R79): the level of input `start` at a tick edge. In a rest phase it is READ or
no operation (`41_onewire_decoder.md` R112); in a busy phase it is ignored and the phase's own rule applies (R113). -/

namespace Sys2Proof.Machine

/-- READ: the tick edge with `start = 1` (R79, R112, R113). -/
def execRead (s : State) : Host.Outcome State Fault Refusal := underLegal s (tickRule true s)

/-- NOP: the tick edge with `start = 0` (R79, R112, R113). -/
def execNop (s : State) : Host.Outcome State Fault Refusal := underLegal s (tickRule false s)

end Sys2Proof.Machine
end

