-- ==== Sys2Proof/Machine/Engine.lean ====
section
/-! DEFINITION. Family DECIDE17: the four cases of `decide` (`42_hysteresis_engine.md` R161 to R164) on an operand word
`{watering, valid, moist, hum}` (`30_encoding.md` R81). The function itself writes nothing; its value is stored into
`watering` by `44_cycle_sequencer.md` R187, and that latch is the one effect here (log entry 8). -/

namespace Sys2Proof.Machine

/-- DECIDE.IDLE.VALID (R161). -/
def execDecideIdleValid (m : BitVec 7) (h : Byte) (s : State) : Host.Outcome State Fault Refusal :=
  underLegal s (latchWatering (decideWatering s.cfg false m.toNat (.valid h)) s)

/-- DECIDE.WATERING.VALID (R162). -/
def execDecideWateringValid (m : BitVec 7) (h : Byte) (s : State) : Host.Outcome State Fault Refusal :=
  underLegal s (latchWatering (decideWatering s.cfg true m.toNat (.valid h)) s)

/-- DECIDE.IDLE.INVALID (R163): the humidity field is ignored, and the engine never sees which error it was (R166), so
any error stands for all. -/
def execDecideIdleInvalid (m : BitVec 7) (_x : Byte) (s : State) : Host.Outcome State Fault Refusal :=
  underLegal s (latchWatering (decideWatering s.cfg false m.toNat (.invalid .noResponse)) s)

/-- DECIDE.WATERING.INVALID (R164), with the field ignored and the error immaterial as above. -/
def execDecideWateringInvalid (m : BitVec 7) (_x : Byte) (s : State) : Host.Outcome State Fault Refusal :=
  underLegal s (latchWatering (decideWatering s.cfg true m.toNat (.invalid .noResponse)) s)

end Sys2Proof.Machine
end

