-- ==== Sys2Proof/Machine/Frame.lean ====
section
/-! DEFINITION. Family FRAME40: a whole frame in register `frame` (`30_encoding.md` R72), judged by
`41_onewire_decoder.md` R123 and, if valid, delivered by R124. -/

namespace Sys2Proof.Machine

/-- The 40 bits of a frame are in, the index is that of the last bit (R23, R24). -/
def loadFrame (f : FrameWord) (s : State) : State := { s with frame := f, bitidx := 39 }

/-- FRAME: the frame has been received whole; validate it. -/
def execFrame (h f t g c : Byte) (s : State) : Host.Outcome State Fault Refusal :=
  underLegal s (validate (loadFrame (frameOf h f t g c) s))

end Sys2Proof.Machine
end

