-- ==== Sys2Proof/Machine/Func.lean ====
section
/-! DEFINITION. Family FUNC: the two combinational boundary functions, each with the one place its value goes (log entry 8).
SCALE is latched into `moist` (`40_moisture_scaler.md` R100, `44_cycle_sequencer.md` R186); APPLY sets the output level
`act_o` (`43_actuation_sink.md` R180). -/

namespace Sys2Proof.Machine

/-- SCALE (R100, R186). -/
def execScale (r : BitVec 12) (s : State) : Host.Outcome State Fault Refusal := underLegal s (latchMoist r.toNat s)

/-- APPLY (R180; no register is written, log entry 7): "Sets the output signal to the physical encoding corresponding to `Watering`/`Idle`". -/
def execApply (w : BitVec 1) (s : State) : Host.Outcome State Fault Refusal :=
  underLegal s (driveAct (w.getLsbD 0) s)

end Sys2Proof.Machine
end

