-- ==== Sys2Proof/Machine/Result.lean ====
section
/-! DEFINITION. Family RES12: the outcome of a read (`30_encoding.md` R76): none, `Valid(h)` (R124), or one of the six errors,
each taken by the one operation `raise` (`60_exceptions.md` R201 to R207). -/

namespace Sys2Proof.Machine

/-- RES.NONE: no read completes at this edge, so nothing is written (R76; log entry 9). -/
def execResNone (s : State) : Host.Outcome State Fault Refusal := underLegal s s

/-- RES.VALID: the read completes with `Valid(h)` (R124, R187). -/
def execResValid (h : Byte) (s : State) : Host.Outcome State Fault Refusal := underLegal s (complete h s)

/-- RES.NoResponse (R201). -/
def execResNoResponse (s : State) : Host.Outcome State Fault Refusal := underLegal s (raise .noResponse s)

/-- RES.PresenceLowTimeout (R202). -/
def execResPresenceLowTimeout (s : State) : Host.Outcome State Fault Refusal :=
  underLegal s (raise .presenceLowTimeout s)

/-- RES.PresenceHighTimeout (R203). -/
def execResPresenceHighTimeout (s : State) : Host.Outcome State Fault Refusal :=
  underLegal s (raise .presenceHighTimeout s)

/-- RES.BitStartTimeout (R204). -/
def execResBitStartTimeout (s : State) : Host.Outcome State Fault Refusal := underLegal s (raise .bitStartTimeout s)

/-- RES.BitEndTimeout (R205). -/
def execResBitEndTimeout (s : State) : Host.Outcome State Fault Refusal := underLegal s (raise .bitEndTimeout s)

/-- RES.ChecksumMismatch (R206). -/
def execResChecksumMismatch (s : State) : Host.Outcome State Fault Refusal :=
  underLegal s (raise .checksumMismatch s)

end Sys2Proof.Machine
end

