-- ==== Sys2Proof/Machine/Sequence.lean ====
section
/-! DEFINITION. Family PHASE4: the transition rule of each phase at a tick edge (`30_encoding.md` R78,
`41_onewire_decoder.md` R112 to R125). -/

namespace Sys2Proof.Machine

/-- IDLE (R112). -/
def execIdle (s : State) : Host.Outcome State Fault Refusal := underLegal s (restRule (startPort s) s)

/-- START_LOW (R114). -/
def execStartLow (s : State) : Host.Outcome State Fault Refusal := underLegal s (startLowRule s)

/-- START_SETTLE (R115). -/
def execStartSettle (s : State) : Host.Outcome State Fault Refusal := underLegal s (startSettleRule s)

/-- PRES_RESP (R117). -/
def execPresResp (s : State) : Host.Outcome State Fault Refusal := underLegal s (presRespRule s)

/-- PRES_LOW (R118). -/
def execPresLow (s : State) : Host.Outcome State Fault Refusal := underLegal s (presLowRule s)

/-- PRES_HIGH (R119). -/
def execPresHigh (s : State) : Host.Outcome State Fault Refusal := underLegal s (presHighRule s)

/-- BIT_WAIT (R120). -/
def execBitWait (s : State) : Host.Outcome State Fault Refusal := underLegal s (bitWaitRule s)

/-- BIT_DELAY (R121). -/
def execBitDelay (s : State) : Host.Outcome State Fault Refusal := underLegal s (bitDelayRule s)

/-- BIT_END (R122, R123, R124). -/
def execBitEnd (s : State) : Host.Outcome State Fault Refusal := underLegal s (bitEndRule s)

/-- DONE: a rest phase, left by R112. -/
def execDone (s : State) : Host.Outcome State Fault Refusal := underLegal s (restRule (startPort s) s)

/-- FAILED: a rest phase, left by R112 (R125, R208). -/
def execFailed (s : State) : Host.Outcome State Fault Refusal := underLegal s (restRule (startPort s) s)

end Sys2Proof.Machine
end

