-- ==== Sys2Proof/Machine/Symbol.lean ====
section
/-! DEFINITION. Family SYMBOL: the data sample of a wire bit (`30_encoding.md` R71), shifted into the frame at the last edge of
`BIT_DELAY` (`41_onewire_decoder.md` R121, `20_memory.md` R56). -/

namespace Sys2Proof.Machine

/-- BIT0: sampled low, the high pulse was the short one. -/
def execBit0 (s : State) : Host.Outcome State Fault Refusal := underLegal s (takeSample false s)

/-- BIT1: sampled high, the high pulse is the long one. -/
def execBit1 (s : State) : Host.Outcome State Fault Refusal := underLegal s (takeSample true s)

end Sys2Proof.Machine
end

