-- ==== Sys2Proof/Machine/Dispatch.lean ====
section
/-! DEFINITION. `exec`: one arm per row of the opcode table, each one direct call of its meaning. -/

namespace Sys2Proof.Machine

def exec (i : Instr) (s : State) : Host.Outcome State Fault Refusal :=
  match i with
  | .read => Sys2Proof.Machine.execRead s
  | .nop => Sys2Proof.Machine.execNop s
  | .bit0 => Sys2Proof.Machine.execBit0 s
  | .bit1 => Sys2Proof.Machine.execBit1 s
  | .frame h f t g c => Sys2Proof.Machine.execFrame h f t g c s
  | .resNone => Sys2Proof.Machine.execResNone s
  | .resValid h => Sys2Proof.Machine.execResValid h s
  | .resNoResponse => Sys2Proof.Machine.execResNoResponse s
  | .resPresenceLowTimeout => Sys2Proof.Machine.execResPresenceLowTimeout s
  | .resPresenceHighTimeout => Sys2Proof.Machine.execResPresenceHighTimeout s
  | .resBitStartTimeout => Sys2Proof.Machine.execResBitStartTimeout s
  | .resBitEndTimeout => Sys2Proof.Machine.execResBitEndTimeout s
  | .resChecksumMismatch => Sys2Proof.Machine.execResChecksumMismatch s
  | .idle => Sys2Proof.Machine.execIdle s
  | .startLow => Sys2Proof.Machine.execStartLow s
  | .startSettle => Sys2Proof.Machine.execStartSettle s
  | .presResp => Sys2Proof.Machine.execPresResp s
  | .presLow => Sys2Proof.Machine.execPresLow s
  | .presHigh => Sys2Proof.Machine.execPresHigh s
  | .bitWait => Sys2Proof.Machine.execBitWait s
  | .bitDelay => Sys2Proof.Machine.execBitDelay s
  | .bitEnd => Sys2Proof.Machine.execBitEnd s
  | .done => Sys2Proof.Machine.execDone s
  | .failed => Sys2Proof.Machine.execFailed s
  | .decideIdleValid m h => Sys2Proof.Machine.execDecideIdleValid m h s
  | .decideWateringValid m h => Sys2Proof.Machine.execDecideWateringValid m h s
  | .decideIdleInvalid m x => Sys2Proof.Machine.execDecideIdleInvalid m x s
  | .decideWateringInvalid m x => Sys2Proof.Machine.execDecideWateringInvalid m x s
  | .scale r => Sys2Proof.Machine.execScale r s
  | .apply w => Sys2Proof.Machine.execApply w s

end Sys2Proof.Machine
end

