-- ==== Sys2Proof/Machine/Flags.lean ====
section
/-! DEFINITION. The status flags and output ports, all functions of the state (`10_state.md` R29, R40), the result word
(`30_encoding.md` R76) and the reading a state denotes (R32). -/

namespace Sys2Proof.Machine

/-- The busy phases (R21). -/
def Phase.busy : Phase → Bool
  | .idle | .done | .failed => false
  | .startLow | .startSettle | .presResp | .presLow | .presHigh | .bitWait | .bitDelay | .bitEnd => true

/-- `dq_drive_low`: the line is driven low exactly in `START_LOW` (R52, R126). -/
def State.dqDriveLow (s : State) : Bool := decide (s.phase = .startLow)

/-- `busy_o`. -/
def State.busyO (s : State) : Bool := s.phase.busy

/-- `done_o`. -/
def State.doneO (s : State) : Bool := decide (s.phase = .done ∨ s.phase = .failed)

/-- `valid_o`. -/
def State.validO (s : State) : Bool := decide (s.phase = .done)

/-- `hum_o`. -/
def State.humO (s : State) : Byte := s.hum

/-- `err_o`. -/
def State.errO (s : State) : BitVec 3 := errCode s.err

/-- `moist_o`. -/
def State.moistO (s : State) : BitVec 7 := s.moist

/-- `watering_o`. -/
def State.wateringO (s : State) : Bool := s.watering

/-- `act_o = watering xor ACT_INVERT`. -/
def State.actO (s : State) : Bool := applySink s.cfg s.watering

/-- `phase_o`. -/
def State.phaseO (s : State) : BitVec 4 := s.phase.code

/-- `RES = {valid_o, err_o[2:0], hum_o[7:0]}` (R76). -/
def State.resultWord (s : State) : BitVec 12 := BitVec.ofBool s.validO ++ s.errO ++ s.humO

/-- The HumidityReading a state denotes (R32). -/
def State.reading (s : State) : Option Reading :=
  match s.phase with
  | .done => some (.valid s.hum)
  | .failed => s.err.map .invalid
  | _ => none

/-- The operand word of `decide`, `{watering, valid, moist[6:0], hum[7:0]}` (R81). -/
def decideWord (w : Bool) (m : BitVec 7) (rd : Reading) : BitVec 17 :=
  BitVec.ofBool w ++ BitVec.ofBool rd.isValid ++ m ++ rd.humidity

end Sys2Proof.Machine
end

