-- ==== Sys2Proof/Machine/Present.lean ====
section
/-! DEFINITION. How a word of the opcode table comes to stand where the block takes its next action from. The block fetches
no instructions (`10_state.md` R36, `20_memory.md` R63): a word acts when it stands at the port or in the register of its
format, at the edge at which the rules read it. `State.present` sets that up and nothing else (log entry 6). -/

namespace Sys2Proof.Machine

/-- The inputs of one tick edge (`rst = 0`, `tick = 1`). -/
def tickInputs (start dq : Bool) (raw : Nat) : Inputs := { rst := false, tick := true, start, raw, dq }

/-- The inputs of one clock edge without a tick. -/
def holdInputs : Inputs := { rst := false, tick := false, start := false, raw := 0, dq := true }

/-- Script one clock edge before all others. -/
def feed (i : Inputs) (s : State) : State := { s with env := i :: s.env }

/-- The last edge of `BIT_END` after bit 39: frame `f` is in and the line is sampled low (R123). -/
def presentFrame (f : FrameWord) (s : State) : State :=
  feed (tickInputs false false 0) { s with phase := .bitEnd, bitidx := 39, frame := f }

/-- The failing sample of a polling phase: the `n`-th sample shows `dq`, the level that is not awaited (R116). -/
def presentTimeout (p : Phase) (n : Nat) (dq : Bool) (s : State) : State :=
  feed (tickInputs false dq 0) { s with phase := p, cnt := n - 1 }

/-- A frame with humidity `h` and a right checksum. -/
def goodFrame (h : Byte) : FrameWord := frameOf h 0 0 0 h

/-- A frame with a wrong checksum. -/
def badFrame : FrameWord := frameOf 0 0 0 0 1

/-- The word of `i` where the next edge acts on it.

DESIGN CHOICE (log entry 6), for the ports the word itself does not give. `raw` is 0 in every presented edge but SCALE's,
where it is the operand; so the accepting edge of READ takes raw value 0, which the spec leaves any value
(`40_moisture_scaler.md` R104, `93_implementation_defined.md` U8). `start` is 0 but for READ and SCALE. The line is high but
for a data sample, a low sample that judges a frame, and a timeout of a phase that awaits a high line. -/
def State.present (s : State) : Instr → State
  | .read => feed (tickInputs true true 0) s
  | .nop => feed (tickInputs false true 0) s
  | .bit0 => presentTimeout .bitDelay s.cfg.nSample false s
  | .bit1 => presentTimeout .bitDelay s.cfg.nSample true s
  | .frame h f t g c => presentFrame (frameOf h f t g c) s
  | .resNone => feed (tickInputs false true 0) { s with phase := .idle }
  | .resValid h => presentFrame (goodFrame h) s
  | .resNoResponse => presentTimeout .presResp s.cfg.nResp true s
  | .resPresenceLowTimeout => presentTimeout .presLow s.cfg.nPlow false s
  | .resPresenceHighTimeout => presentTimeout .presHigh s.cfg.nPhigh true s
  | .resBitStartTimeout => presentTimeout .bitWait s.cfg.nBstart false s
  | .resBitEndTimeout => presentTimeout .bitEnd s.cfg.nBend true s
  | .resChecksumMismatch => presentFrame badFrame s
  | .idle => feed (tickInputs false true 0) { s with phase := .idle }
  | .startLow => feed (tickInputs false true 0) { s with phase := .startLow }
  | .startSettle => feed (tickInputs false true 0) { s with phase := .startSettle }
  | .presResp => feed (tickInputs false true 0) { s with phase := .presResp }
  | .presLow => feed (tickInputs false true 0) { s with phase := .presLow }
  | .presHigh => feed (tickInputs false true 0) { s with phase := .presHigh }
  | .bitWait => feed (tickInputs false true 0) { s with phase := .bitWait }
  | .bitDelay => feed (tickInputs false true 0) { s with phase := .bitDelay }
  | .bitEnd => feed (tickInputs false true 0) { s with phase := .bitEnd }
  | .done => feed (tickInputs false true 0) { s with phase := .done }
  | .failed => feed (tickInputs false true 0) { s with phase := .failed }
  | .decideIdleValid m h => presentFrame (goodFrame h) { s with watering := false, moist := m }
  | .decideWateringValid m h => presentFrame (goodFrame h) { s with watering := true, moist := m }
  | .decideIdleInvalid m _ =>
      presentTimeout .presResp s.cfg.nResp true { s with watering := false, moist := m }
  | .decideWateringInvalid m _ =>
      presentTimeout .presResp s.cfg.nResp true { s with watering := true, moist := m }
  | .scale r => feed (tickInputs true true r.toNat) { s with phase := .idle }
  | .apply w => feed holdInputs { s with watering := w.getLsbD 0 }

/-- The word `w` of `nbits` bits, presented; a word that decodes to nothing changes nothing. -/
def presentTableWord (s : State) (nbits w : Nat) : State :=
  match decodeTableWord nbits w with
  | some i => s.present i
  | none => s

end Sys2Proof.Machine
end

