-- ==== Sys2Proof/Machine/Step.lean ====
section
/-! DEFINITION. One step is one rising edge of `clk` (`00_scope.md` R8), in its priority order: an illegal configuration is
refused (R11); `rst` resets; without `tick` every register holds; at a tick edge the word of register `phase` is decoded and
executed. Every edge ends with `endEdge`. -/

namespace Sys2Proof.Machine

/-- What a step adds around `exec`: the end of the clock edge. -/
def closeEdge : Host.Outcome State Fault Refusal → Host.Outcome State Fault Refusal
  | .next s => .next (endEdge s)
  | .fault r => .fault r
  | .refused r => .refused r

/-- A tick edge: decode what stands in `phase`, execute it. -/
def tickEdge (s : State) : Host.Outcome State Fault Refusal :=
  match decode .phase4 s.fetchWord with
  | .ok i => closeEdge (exec i s)
  | .error why => .refused (.noSuchPhase why)

/-- The step (R8). -/
def step (s : State) : Host.Outcome State Fault Refusal :=
  if s.inputs.rst then closeEdge (underLegal s (resetRegs s))
  else if s.inputs.tick then tickEdge s
  else closeEdge (underLegal s s)

/-- `s` with the table's word where the next step acts on it (`presentTableWord`). -/
def State.withFetchWord (s : State) (nbits w : Nat) : State := presentTableWord s nbits w

end Sys2Proof.Machine
end

