-- ==== Sys2Proof/Safety.lean ====
section
/-! DEFINITION. The terms in which claims are stated: the invariant of `10_state.md` R33, the bound of each busy phase, what a
clock edge of each kind is, the ranking of a read (`41_onewire_decoder.md` R128), and the line scripts of
`30_encoding.md` R85 with the acceptance region of R130. -/

namespace Sys2Proof.Machine

/-! ### Invariants -/

/-- The parameter of a busy phase (R33 (e)); a rest phase holds `cnt = 0`, which is a bound of 1. -/
def phaseBound (c : Cfg) : Phase → Nat
  | .startLow => c.nStart
  | .startSettle => c.nSettle
  | .presResp => c.nResp
  | .presLow => c.nPlow
  | .presHigh => c.nPhigh
  | .bitWait => c.nBstart
  | .bitDelay => c.nSample
  | .bitEnd => c.nBend
  | .idle | .done | .failed => 1

/-- The phases before the first wire bit (R33 (g)). -/
def Phase.preBit : Phase → Bool
  | .startLow | .startSettle | .presResp | .presLow | .presHigh => true
  | .idle | .bitWait | .bitDelay | .bitEnd | .done | .failed => false

/-- The invariant of R33. Its clauses (a) and (d) hold by the types of `phase` and `bitidx`. -/
structure State.Inv (s : State) : Prop where
  /-- (b) -/
  err_iff : s.err.isSome = true ↔ s.phase = .failed
  /-- (c) -/
  hum_zero : s.phase ≠ .done → s.hum = 0
  /-- (e) -/
  cnt_lt : s.cnt < phaseBound s.cfg s.phase
  /-- (f) -/
  moist_le : s.moist.toNat ≤ 100
  /-- (g) -/
  pre_bit : s.phase.preBit = true → s.bitidx.val = 0 ∧ s.frame = 0
  /-- (h), for `BIT_WAIT` and `BIT_DELAY`: exactly `bitidx` bits are in. -/
  bits_in : s.phase = .bitWait ∨ s.phase = .bitDelay → s.frame.toNat < 2 ^ s.bitidx.val
  /-- (h), for `BIT_END`. -/
  bits_in_end : s.phase = .bitEnd → s.frame.toNat < 2 ^ (s.bitidx.val + 1)
  /-- (i) -/
  done_ok : s.phase = .done → checksumOk s.frame = true ∧ s.hum = frameByte s.frame 0

/-! ### Phases -/

/-- The phase after a wait or a fixed delay that is over, for the phases whose rule only moves on (R114 to R120). -/
def Phase.follows : Phase → Phase → Prop
  | .startLow, .startSettle => True
  | .startSettle, .presResp => True
  | .presResp, .presLow => True
  | .presLow, .presHigh => True
  | .presHigh, .bitWait => True
  | .bitWait, .bitDelay => True
  | _, _ => False

/-- The level a polling phase waits for, and the error it raises (R117 to R120, R122). -/
def Phase.awaits : Phase → Option (Bool × OneWireError)
  | .presResp => some (false, .noResponse)
  | .presLow => some (true, .presenceLowTimeout)
  | .presHigh => some (false, .presenceHighTimeout)
  | .bitWait => some (true, .bitStartTimeout)
  | .bitEnd => some (false, .bitEndTimeout)
  | _ => none

/-! ### Clock edges -/

/-- The coming clock edge is a tick edge (`rst = 0`, `tick = 1`). -/
abbrev State.atTick (s : State) : Prop := s.inputs.rst = false ∧ s.inputs.tick = true

/-- An edge of a script that is a tick edge. -/
def isTickEdge (i : Inputs) : Bool := !i.rst && i.tick

/-- A list of scripted edges, all of them tick edges. -/
abbrev allTicks (is : List Inputs) : Prop := ∀ i ∈ is, isTickEdge i = true

/-- The reading produced at an edge that ends a read in this state (R32). -/
abbrev State.endsRead (s s' : State) : Prop := s.phase.busy = true ∧ s'.phase.busy = false

/-- The edge uses the line level (R51): a sample of a polling phase, or the data sample. -/
def State.usesLine (s : State) : Bool :=
  match s.phase with
  | .presResp | .presLow | .presHigh | .bitWait | .bitEnd => true
  | .bitDelay => decide (s.cnt = s.cfg.nSample - 1)
  | .idle | .startLow | .startSettle | .done | .failed => false

/-! ### The states after the edges that end a read -/

/-- The state after a read has ended with error `e`, written out from the pseudocode of R207. -/
def State.afterError (s : State) (e : OneWireError) : State :=
  { s with phase := .failed, err := some e, hum := 0, cnt := 0,
           watering := decideWatering s.cfg s.watering s.moist.toNat (.invalid e) }

/-- The state after a read has ended with `Valid(h)`, written out from the pseudocode of R124. -/
def State.afterValid (s : State) (h : Byte) : State :=
  { s with phase := .done, hum := h, err := none, cnt := 0,
           watering := decideWatering s.cfg s.watering s.moist.toNat (.valid h) }

/-- The state after a read has been accepted with `raw = r`, written out from the pseudocode of R112. -/
def State.afterAccept (s : State) (r : Nat) : State :=
  { s with phase := .startLow, cnt := 0, bitidx := 0, frame := 0, hum := 0, err := none,
           moist := BitVec.ofNat 7 (scaleRaw r) }

/-! ### The ranking of a read -/

/-- The most tick edges a read can still take, per wire bit (R128). -/
def bitCost (c : Cfg) : Nat := c.nBstart + c.nSample + c.nBend

/-- `K_max` of R128. -/
def maxSlots (c : Cfg) : Nat := c.nResp + c.nPlow + c.nPhigh + 40 * bitCost c

/-- The most tick edges before the read in progress ends; 0 in a rest phase. -/
def edgesLeft (s : State) : Nat :=
  match s.phase with
  | .idle | .done | .failed => 0
  | .startLow => s.cfg.nStart - s.cnt + s.cfg.nSettle + maxSlots s.cfg
  | .startSettle => s.cfg.nSettle - s.cnt + maxSlots s.cfg
  | .presResp => s.cfg.nResp - s.cnt + s.cfg.nPlow + s.cfg.nPhigh + 40 * bitCost s.cfg
  | .presLow => s.cfg.nPlow - s.cnt + s.cfg.nPhigh + 40 * bitCost s.cfg
  | .presHigh => s.cfg.nPhigh - s.cnt + 40 * bitCost s.cfg
  | .bitWait => s.cfg.nBstart - s.cnt + s.cfg.nSample + s.cfg.nBend + (39 - s.bitidx.val) * bitCost s.cfg
  | .bitDelay => s.cfg.nSample - s.cnt + s.cfg.nBend + (39 - s.bitidx.val) * bitCost s.cfg
  | .bitEnd => s.cfg.nBend - s.cnt + (39 - s.bitidx.val) * bitCost s.cfg

/-! ### Line scripts (R85, R86, R130) -/

/-- One wire bit as a sender plays it: the value it means, the slots of its low and of its high pulse. -/
structure WireBit where
  v : Bool
  l : Nat
  h : Nat
deriving DecidableEq, Repr

/-- `L<n>`: n line slots at level 0. -/
def lowRun (n : Nat) : List Bool := List.replicate n false

/-- `H<n>`: n line slots at level 1. -/
def highRun (n : Nat) : List Bool := List.replicate n true

/-- `L<l_0> H<h_0> L<l_1> H<h_1> ...` -/
def bitRuns : List WireBit → List Bool
  | [] => []
  | b :: bs => lowRun b.l ++ highRun b.h ++ bitRuns bs

/-- `H<a> L<p> H<q>`, the bits, `L<z>`: the script of R130. -/
def readScript (a p q : Nat) (bits : List WireBit) (z : Nat) : List Bool :=
  highRun a ++ lowRun p ++ highRun q ++ bitRuns bits ++ lowRun z

/-- The low run after a bit: the next bit's, or the final one (`l_40` stands for z, R130 (f)). -/
def nextLow : List WireBit → Nat → Nat
  | [], z => z
  | b :: _, _ => b.l

/-- Conditions (d), (e), (f) and (g) of R130. -/
def bitsAccepted (c : Cfg) : List WireBit → Nat → Bool
  | [], z => decide (1 ≤ z)
  | b :: bs, z =>
      decide (1 ≤ b.l ∧ b.l ≤ c.nBstart)
        && (if b.v then decide (c.nSample + 1 ≤ b.h ∧ b.h ≤ c.nSample + c.nBend)
            else decide ((1 ≤ b.h ∧ b.h ≤ c.nSample) ∧ c.nSample + 2 - b.h ≤ nextLow bs z))
        && bitsAccepted c bs z

/-- Slots of the bits alone. -/
def bitSlots (bits : List WireBit) : Nat := (bits.map fun b => b.l + b.h).sum

/-- The term `t` of R129: the slots spent after the last bit's high pulse. -/
def tailSlots (c : Cfg) (bits : List WireBit) : Nat :=
  match bits.getLast? with
  | some b => if b.v then 1 else c.nSample + 2 - b.h
  | none => 0

/-- `K` of R129. -/
def readSlots (c : Cfg) (a p q : Nat) (bits : List WireBit) : Nat := a + p + q + bitSlots bits + tailSlots c bits

/-- The register `frame` after shifting in wire bits, first received first, from `frame = 0` (R56). -/
def frameOfBits (bs : List Bool) : FrameWord := bs.foldl shiftIn 0

end Sys2Proof.Machine
end

