-- ==== Sys2Proof/Certificates/Slice0/Obligations.lean ====
section
/-! DEFINITION. The statements for the provers, from the numbered rules of `spec/`. A statement about `exec` gives the whole
next state, so it says at once what changes and that nothing else does; the block has no memory to frame
(`20_memory.md` R50). Every statement is over all configurations `s.cfg` and over all inputs. -/

open Sys2Proof Sys2Proof.Machine

/-! ### Encodings -/

/-- R87: decoding the encoding of an operation, in its format, gives it back, with every operand at every value. -/
def Obligations.DecodeEncodeRoundTrip : Prop :=
  ∀ i : Instr, decode i.format (encode i) = .ok i

/-- R87: what decodes is exactly what the encoder writes, so every word of a format has one meaning. -/
def Obligations.EncodeDecodeRoundTrip : Prop :=
  ∀ (f : Format) (bs : List Byte) (i : Instr), decode f bs = .ok i → i.format = f ∧ encode i = bs

/-- R87: "a word w belongs to the row iff `w and mask = match`, within the row's format"; the row the decoder takes is the
one row of the format the word belongs to. -/
def Obligations.WordBelongsToExactlyItsRow : Prop :=
  ∀ (f : Format) (w : Nat) (i : Instr), decodeWord f w = .ok i →
    f.fits w = true ∧ i.format = f ∧ w &&& i.rowMatch.2 = i.rowMatch.1
      ∧ ∀ j : Instr, j.format = f → w &&& j.rowMatch.2 = j.rowMatch.1 → j.rowMatch = i.rowMatch

/-- R76, R78, R82: the result words are the three forms and no other; the phase codes are 0 to 10 and no other. -/
def Obligations.ReservedWordsAreRejected : Prop :=
  (∀ w : Nat, (∃ i, decodeWord .res12 w = .ok i) ↔
      (w = 0 ∨ (0x800 ≤ w ∧ w < 0x900) ∨ ∃ e, 1 ≤ e ∧ e ≤ 6 ∧ w = e * 0x100))
    ∧ (∀ w : Nat, (∃ i, decodeWord .phase4 w = .ok i) ↔ w ≤ 10)

/-- Words written out bit by bit from the spec's encodings (R72, R76 to R79, R81). The bits of each word are the spec's; that a
word of more than eight bits is laid out as bytes, least significant byte first, is the model's choice (log entry 4). -/
def Obligations.SampleWordsDecode : Prop :=
  decode .cmd [0b1#8] = .ok .read
    ∧ decode .symbol [0b1#8] = .ok .bit1
    ∧ decode .frame40 [0b01010000#8, 0b00000000#8, 0b00010100#8, 0b00000000#8, 0b00111100#8]
        = .ok (.frame 60 0 20 0 80)
    ∧ decode .res12 [0b00111100#8, 0b1000#8] = .ok (.resValid 60)
    ∧ decode .phase4 [0b0111#8] = .ok .bitDelay
    ∧ decode .decide17 [0b01000110#8, 0b10011110#8, 0b0#8] = .ok (.decideIdleValid 30 70)
    ∧ decode .scaleFunc [0b11001100#8, 0b0100#8] = .ok (.scale 1228)
    ∧ decode .applyFunc [0b1#8] = .ok (.apply 1)

/-! ### The step -/

/-- R8, R36: at a tick edge the word of `phase` always decodes, and the step is `exec` of what it decodes to, with the end of
the edge around it: the sink shows the new `watering` (`act`, log entry 7), this edge's inputs are used up (`env` and `edge`,
log entry 1). -/
def Obligations.StepRunsDecodedInstruction : Prop :=
  ∀ s : State, s.atTick → ∃ i, decode .phase4 s.fetchWord = .ok i ∧
    (∀ t, exec i s = .next t → step s = .next { t with act := applySink t.cfg t.watering, env := t.env.tail,
                                                       edge := t.edge + 1 })
    ∧ (∀ r, exec i s = .refused r → step s = .refused r)

/-- R230, R39, R231: at an edge with `rst = 1`, whatever the state and the other inputs, every register takes its reset value
(so the line is released and no result is shown); only the model's own record of inputs moves on
(`act`, log entry 7; `env` and `edge`, log entry 1). -/
def Obligations.ResetEdgeClearsEveryRegister : Prop :=
  ∀ s : State, s.cfg.legal = true → s.inputs.rst = true →
    step s = .next { cfg := s.cfg, phase := .idle, cnt := 0, bitidx := 0, frame := 0, hum := 0, err := none, moist := 0,
                     watering := false, act := s.cfg.actInvert, env := s.env.tail, edge := s.edge + 1 }

/-- R39, R231: the reset state, and what its ports show; that its configuration is the default one is log entry 3. -/
def Obligations.ResetStateShowsNothing : Prop :=
  State.reset.phase = .idle ∧ State.reset.cnt = 0 ∧ State.reset.bitidx = 0 ∧ State.reset.frame = 0
    ∧ State.reset.hum = 0 ∧ State.reset.err = none ∧ State.reset.moist = 0 ∧ State.reset.watering = false
    ∧ State.reset.dqDriveLow = false ∧ State.reset.busyO = false ∧ State.reset.doneO = false
    ∧ State.reset.validO = false ∧ State.reset.humO = 0 ∧ State.reset.errO = 0 ∧ State.reset.moistO = 0
    ∧ State.reset.wateringO = false ∧ State.reset.actO = State.reset.cfg.actInvert ∧ State.reset.phaseO = 0
    ∧ State.reset.resultWord = 0 ∧ State.reset.cfg.legal = true

/-- R8 (2), R111: an edge with `rst = 0` and `tick = 0` holds every register; the model's own fields move on (log entries 1
and 7). -/
def Obligations.NoTickHoldsEveryRegister : Prop :=
  ∀ s : State, s.cfg.legal = true → s.inputs.rst = false → s.inputs.tick = false →
    step s = .next { s with act := applySink s.cfg s.watering, env := s.env.tail, edge := s.edge + 1 }

/-- R210: under a legal configuration nothing ever stops the machine. R11 and U1 ask a model to refuse the configurations
outside R9; that the refusal is one of every step, reset edges included, and of every operation is the model's form of it (log
entry 14), and that R9 does not take in the sampling window of R236 is its choice (log entry 22). -/
def Obligations.OnlyIllegalConfigurationsStop : Prop :=
  (∀ s : State, s.cfg.legal = true → (∃ t, step s = .next t) ∧ ∀ i : Instr, ∃ t, exec i s = .next t)
    ∧ (∀ s : State, s.cfg.legal = false →
        step s = .refused .illegalConfig ∧ ∀ i : Instr, exec i s = .refused .illegalConfig)

/-- How a table word comes to be acted on (log entry 6, the model's choice, with `raw = 0` at a presented READ): the step after `withFetchWord` is `exec` of the decoded
operation. A DECIDE or SCALE row names a function that is one part of an edge (R185): there the step gives the register
the value `exec` gives it. -/
def Obligations.PresentedWordIsRunByTheStep : Prop :=
  (∀ (s : State) (nbits w : Nat) (i : Instr), decodeTableWord nbits w = some i → s.withFetchWord nbits w = s.present i)
    ∧ ∀ (s : State) (i : Instr), s.cfg.legal = true →
        (i.format ≠ .decide17 → i.format ≠ .scaleFunc → step (s.present i) = closeEdge (exec i (s.present i)))
        ∧ (i.format = .decide17 → ∃ t u, step (s.present i) = .next t ∧ exec i (s.present i) = .next u
            ∧ t.watering = u.watering)
        ∧ (i.format = .scaleFunc → ∃ t u, step (s.present i) = .next t ∧ exec i (s.present i) = .next u
            ∧ t.moist = u.moist)

/-! ### CMD and the rest phases -/

/-- R112, R79: READ in a rest phase withdraws the old result, latches the moisture and begins the start pulse; `watering` is
not touched. -/
def Obligations.ReadBeginsCycleInRestPhase : Prop :=
  ∀ s : State, s.cfg.legal = true → s.phase.busy = false →
    ∃ t, exec .read s = .next t ∧ t = s.afterAccept (rawPort s) ∧ t.moist.toNat = min 100 ((200 * rawPort s + 4095) / 8190)
      ∧ t.busyO = true ∧ t.doneO = false ∧ t.resultWord = 0 ∧ t.dqDriveLow = true

/-- R79, R188: NOP in a rest phase holds everything. That a CMD row is run as the tick edge with its level: log entry 13. -/
def Obligations.NopHoldsInRestPhase : Prop :=
  ∀ s : State, s.cfg.legal = true → s.phase.busy = false → exec .nop s = .next s

/-- R113: while a read is in progress READ and NOP are the same edge, that of the phase (log entry 13). -/
def Obligations.CommandIgnoredWhileBusy : Prop :=
  ∀ s : State, s.cfg.legal = true → s.phase.busy = true →
    ∃ i t, decode .phase4 s.fetchWord = .ok i ∧ exec i s = .next t ∧ exec .read s = .next t ∧ exec .nop s = .next t

/-- R112: the three rest phases behave identically: they accept `start`, or hold. -/
def Obligations.RestPhasesBehaveIdentically : Prop :=
  ∀ s : State, s.cfg.legal = true →
    exec .idle s = .next (if startPort s then s.afterAccept (rawPort s) else s)
      ∧ exec .done s = .next (if startPort s then s.afterAccept (rawPort s) else s)
      ∧ exec .failed s = .next (if startPort s then s.afterAccept (rawPort s) else s)

/-! ### SYMBOL, FRAME and the results -/

/-- R71, R121, R56: the data sample is shifted in at the low end. The row alone is the edge that takes the sample (log
entry 12). -/
def Obligations.DataSampleShiftsIntoFrame : Prop :=
  ∀ s : State, s.cfg.legal = true →
    exec .bit0 s = .next { s with frame := s.frame <<< 1, phase := .bitEnd, cnt := 0 }
      ∧ exec .bit1 s = .next { s with frame := s.frame <<< 1 ||| 1, phase := .bitEnd, cnt := 0 }

/-- R74, R123, R124, R206: a whole frame ends the read with its byte 0 if its checksum is right, and with
`ChecksumMismatch` if not; fields f, t, g enter the checksum only. The row alone puts the frame in place first (log
entry 10). -/
def Obligations.FrameIsJudgedByItsChecksum : Prop :=
  ∀ (s : State) (h f t g c : Byte), s.cfg.legal = true →
    ((h.toNat + f.toNat + t.toNat + g.toNat) % 256 = c.toNat →
        exec (.frame h f t g c) s = .next (({ s with frame := h ++ f ++ t ++ g ++ c, bitidx := 39 } : State).afterValid h))
      ∧ ((h.toNat + f.toNat + t.toNat + g.toNat) % 256 ≠ c.toNat →
        exec (.frame h f t g c) s
          = .next (({ s with frame := h ++ f ++ t ++ g ++ c, bitidx := 39 } : State).afterError .checksumMismatch))

/-- R76 (log entry 9, the model's reading): where no read completes, nothing is written. -/
def Obligations.ResultNoneWritesNothing : Prop :=
  ∀ s : State, s.cfg.legal = true → exec .resNone s = .next s

/-- R124, R187: completing a read with `Valid(h)`, and what the ports then show. The row alone is the edge with that result
(log entry 11). -/
def Obligations.ResultValidCompletesTheRead : Prop :=
  ∀ (s : State) (h : Byte), s.cfg.legal = true →
    exec (.resValid h) s = .next (s.afterValid h) ∧ (s.afterValid h).resultWord.toNat = 0x800 + h.toNat
      ∧ (s.afterValid h).doneO = true ∧ (s.afterValid h).busyO = false ∧ (s.afterValid h).reading = some (.valid h)

/-- R200 to R207, R77: each of the six errors is taken in the same way: `FAILED`, its code 1 to 6, no humidity, the degraded
decision; `bitidx`, `frame`, `moist` hold; the line is released. The row alone is the edge with that result (log entry 11). -/
def Obligations.ErrorRowsTakeTheirError : Prop :=
  ∀ s : State, s.cfg.legal = true →
    (exec .resNoResponse s = .next (s.afterError .noResponse)
      ∧ exec .resPresenceLowTimeout s = .next (s.afterError .presenceLowTimeout)
      ∧ exec .resPresenceHighTimeout s = .next (s.afterError .presenceHighTimeout)
      ∧ exec .resBitStartTimeout s = .next (s.afterError .bitStartTimeout)
      ∧ exec .resBitEndTimeout s = .next (s.afterError .bitEndTimeout)
      ∧ exec .resChecksumMismatch s = .next (s.afterError .checksumMismatch))
    ∧ ((s.afterError .noResponse).errO = 1 ∧ (s.afterError .noResponse).resultWord = 0x100)
    ∧ ((s.afterError .presenceLowTimeout).errO = 2 ∧ (s.afterError .presenceLowTimeout).resultWord = 0x200)
    ∧ ((s.afterError .presenceHighTimeout).errO = 3 ∧ (s.afterError .presenceHighTimeout).resultWord = 0x300)
    ∧ ((s.afterError .bitStartTimeout).errO = 4 ∧ (s.afterError .bitStartTimeout).resultWord = 0x400)
    ∧ ((s.afterError .bitEndTimeout).errO = 5 ∧ (s.afterError .bitEndTimeout).resultWord = 0x500)
    ∧ ((s.afterError .checksumMismatch).errO = 6 ∧ (s.afterError .checksumMismatch).resultWord = 0x600)
    ∧ ∀ e, (s.afterError e).doneO = true ∧ (s.afterError e).validO = false ∧ (s.afterError e).busyO = false
        ∧ (s.afterError e).humO = 0 ∧ (s.afterError e).dqDriveLow = false

/-! ### PHASE4 -/

/-- R114, R115: the two fixed delays of the start pulse. A PHASE4 row is run as the rule of its phase (log entry 13). -/
def Obligations.StartPhasesCountTheirDelay : Prop :=
  ∀ s : State, s.cfg.legal = true →
    (s.cnt < s.cfg.nStart → exec .startLow s =
        .next (if s.cnt = s.cfg.nStart - 1 then { s with phase := .startSettle, cnt := 0 } else { s with cnt := s.cnt + 1 }))
    ∧ (s.cnt < s.cfg.nSettle → exec .startSettle s =
        .next (if s.cnt = s.cfg.nSettle - 1 then { s with phase := .presResp, cnt := 0 } else { s with cnt := s.cnt + 1 }))

/-- R116, R117: the sensor answers, or the last sample is high and the read ends with `NoResponse`, or the phase counts. -/
def Obligations.PresRespPollsForLow : Prop :=
  ∀ s : State, s.cfg.legal = true → s.cnt < s.cfg.nResp → exec .presResp s =
    .next (if lineSample s = false then { s with phase := .presLow, cnt := 0 }
           else if s.cnt = s.cfg.nResp - 1 then s.afterError .noResponse else { s with cnt := s.cnt + 1 })

/-- R116, R118, R119: the two halves of the presence pulse, each with its own error. -/
def Obligations.PresencePhasesPollTheirHalf : Prop :=
  ∀ s : State, s.cfg.legal = true →
    (s.cnt < s.cfg.nPlow → exec .presLow s =
      .next (if lineSample s = true then { s with phase := .presHigh, cnt := 0 }
             else if s.cnt = s.cfg.nPlow - 1 then s.afterError .presenceLowTimeout else { s with cnt := s.cnt + 1 }))
    ∧ (s.cnt < s.cfg.nPhigh → exec .presHigh s =
      .next (if lineSample s = false then { s with phase := .bitWait, cnt := 0 }
             else if s.cnt = s.cfg.nPhigh - 1 then s.afterError .presenceHighTimeout else { s with cnt := s.cnt + 1 }))

/-- R116, R120: the low pulse that starts a bit ends, or times out. -/
def Obligations.BitWaitPollsForHigh : Prop :=
  ∀ s : State, s.cfg.legal = true → s.cnt < s.cfg.nBstart → exec .bitWait s =
    .next (if lineSample s = true then { s with phase := .bitDelay, cnt := 0 }
           else if s.cnt = s.cfg.nBstart - 1 then s.afterError .bitStartTimeout else { s with cnt := s.cnt + 1 })

/-- R121: the one data sample, at the last edge of the delay only. -/
def Obligations.BitDelaySamplesOnce : Prop :=
  ∀ s : State, s.cfg.legal = true → s.cnt < s.cfg.nSample → exec .bitDelay s =
    .next (if s.cnt = s.cfg.nSample - 1 then
             { s with frame := if lineSample s then s.frame <<< 1 ||| 1 else s.frame <<< 1, phase := .bitEnd, cnt := 0 }
           else { s with cnt := s.cnt + 1 })

/-- R116, R122, R123, R124: after the data sample the line must be low again; then the next bit, or after bit 39 the
judgement of the frame. -/
def Obligations.BitEndGoesOnOrValidates : Prop :=
  ∀ s : State, s.cfg.legal = true → s.cnt < s.cfg.nBend →
    (lineSample s = true → exec .bitEnd s =
        .next (if s.cnt = s.cfg.nBend - 1 then s.afterError .bitEndTimeout else { s with cnt := s.cnt + 1 }))
    ∧ (lineSample s = false → ∀ h : s.bitidx.val < 39, exec .bitEnd s =
        .next { s with bitidx := ⟨s.bitidx.val + 1, by omega⟩, phase := .bitWait, cnt := 0 })
    ∧ (lineSample s = false → s.bitidx.val = 39 → exec .bitEnd s =
        .next (if checksumOk s.frame then s.afterValid (frameByte s.frame 0) else s.afterError .checksumMismatch))

/-! ### DECIDE, SCALE, APPLY -/

/-- R161: `Idle`, valid humidity; with the document's thresholds, the corner cases and the example of the rule. That the row
alone latches its value is the model's choice (log entry 8). -/
def Obligations.DecideIdleValidOnset : Prop :=
  (∀ (s : State) (m : BitVec 7) (h : Byte), s.cfg.legal = true → exec (.decideIdleValid m h) s =
      .next { s with watering := decide (m.toNat < s.cfg.moistOnTh ∧ h.toNat < s.cfg.rhOnLimit) })
    ∧ (∀ h : Byte, decideWatering Cfg.default false 35 (.valid h) = false)
    ∧ (∀ h : Byte, decideWatering Cfg.default false 34 (.valid h) = decide (h.toNat ≤ 79))
    ∧ (∀ (m : Nat) (h : Byte), 80 ≤ h.toNat → decideWatering Cfg.default false m (.valid h) = false)
    ∧ decideWatering Cfg.default false 30 (.valid 70) = true

/-- R162: `Watering`, valid humidity. That the row alone latches its value is the model's choice (log entry 8). -/
def Obligations.DecideWateringValidRelease : Prop :=
  (∀ (s : State) (m : BitVec 7) (h : Byte), s.cfg.legal = true → exec (.decideWateringValid m h) s =
      .next { s with watering := !decide (m.toNat > s.cfg.moistOffTh ∨ h.toNat > s.cfg.rhOffLimit) })
    ∧ (∀ h : Byte, decideWatering Cfg.default true 45 (.valid h) = decide (h.toNat ≤ 85))
    ∧ (∀ h : Byte, decideWatering Cfg.default true 46 (.valid h) = false)
    ∧ (∀ (m : Nat) (h : Byte), m ≤ 45 → 80 ≤ h.toNat → h.toNat ≤ 85 →
        decideWatering Cfg.default true m (.valid h) = true ∧ decideWatering Cfg.default false m (.valid h) = false)
    ∧ decideWatering Cfg.default true 50 (.valid 70) = false
    ∧ decideWatering Cfg.default true 30 (.valid 86) = false
    ∧ decideWatering Cfg.default true 30 (.valid 85) = true

/-- R163, R164, R166: degraded mode: moisture alone, the ignored field ignored, every error alike. That the row alone latches
its value is the model's choice (log entry 8). -/
def Obligations.DecideDegradedModeUsesMoistureAlone : Prop :=
  (∀ (s : State) (m : BitVec 7) (x : Byte), s.cfg.legal = true →
      exec (.decideIdleInvalid m x) s = .next { s with watering := decide (m.toNat < s.cfg.moistOnTh) }
      ∧ exec (.decideWateringInvalid m x) s = .next { s with watering := !decide (m.toNat > s.cfg.moistOffTh) })
    ∧ (∀ (c : Cfg) (m : Nat) (e : OneWireError),
        decideWatering c false m (.invalid e) = decide (m < c.moistOnTh)
        ∧ decideWatering c true m (.invalid e) = !decide (m > c.moistOffTh))
    ∧ decideWatering Cfg.default false 35 (.invalid .noResponse) = false
    ∧ decideWatering Cfg.default false 34 (.invalid .noResponse) = true
    ∧ decideWatering Cfg.default false 30 (.invalid .noResponse) = true
    ∧ decideWatering Cfg.default true 50 (.invalid .checksumMismatch) = false
    ∧ decideWatering Cfg.default true 45 (.invalid .bitEndTimeout) = true

/-- R165: under every configuration, inverted thresholds included, only the current state's exit condition moves it (so one
evaluation makes at most one transition), and every other input leaves it unchanged; and the complete table, row by row, with
the document's thresholds. -/
def Obligations.DecideFollowsTheCompleteTable : Prop :=
  (∀ (c : Cfg) (m : Nat) (rd : Reading),
    (decideWatering c false m rd = true ↔ m < c.moistOnTh ∧ ∀ h, rd = .valid h → h.toNat < c.rhOnLimit)
    ∧ (decideWatering c true m rd = false ↔ m > c.moistOffTh ∨ ∃ h, rd = .valid h ∧ h.toNat > c.rhOffLimit))
  ∧ ∀ (c : Cfg) (m : Nat) (h : Byte) (e : OneWireError),
    c.moistOnTh = 35 → c.moistOffTh = 45 → c.rhOnLimit = 80 → c.rhOffLimit = 85 →
    (m < 35 → h.toNat < 80 → decideWatering c false m (.valid h) = true)
    ∧ (m < 35 → h.toNat ≥ 80 → decideWatering c false m (.valid h) = false)
    ∧ (m ≥ 35 → decideWatering c false m (.valid h) = false)
    ∧ (m < 35 → decideWatering c false m (.invalid e) = true)
    ∧ (m ≥ 35 → decideWatering c false m (.invalid e) = false)
    ∧ (m > 45 → decideWatering c true m (.valid h) = false)
    ∧ (m ≤ 45 → h.toNat > 85 → decideWatering c true m (.valid h) = false)
    ∧ (m ≤ 45 → h.toNat ≤ 85 → decideWatering c true m (.valid h) = true)
    ∧ (m > 45 → decideWatering c true m (.invalid e) = false)
    ∧ (m ≤ 45 → decideWatering c true m (.invalid e) = true)

/-- R173: inside the dead-bands `watering` never changes over any sequence of evaluations; and to toggle both ways by
moisture alone two values must differ by more than `MOIST_OFF_TH - MOIST_ON_TH + 1`. -/
def Obligations.NoChatterInsideTheDeadBands : Prop :=
  (∀ (c : Cfg) (w : Bool) (evs : List (Nat × Reading)), c.moistOnTh ≤ c.moistOffTh → c.rhOnLimit ≤ c.rhOffLimit →
      (∀ ev ∈ evs, c.moistOnTh ≤ ev.1 ∧ ev.1 ≤ c.moistOffTh ∧ ∀ h, ev.2 = .valid h → h.toNat ≤ c.rhOffLimit) →
      evs.foldl (fun w ev => decideWatering c w ev.1 ev.2) w = w)
    ∧ (∀ (c : Cfg) (m m' : Nat) (rd rd' : Reading), c.moistOnTh ≤ c.moistOffTh →
        decideWatering c false m rd = true → decideWatering c true m' rd' = false →
        m < c.moistOnTh ∧ (m' > c.moistOffTh ∨ ∃ h, rd' = .valid h ∧ h.toNat > c.rhOffLimit)
        ∧ (m' > c.moistOffTh → m' - m > c.moistOffTh - c.moistOnTh + 1))

/-- R100, R186: SCALE gives `moist` the percentage of its operand and writes nothing else. That the row alone latches its
value is the model's choice (log entry 8). -/
def Obligations.ScaleLatchesThePercentage : Prop :=
  ∀ (s : State) (r : BitVec 12), s.cfg.legal = true →
    ∃ t, exec (.scale r) s = .next t ∧ t = { s with moist := t.moist }
      ∧ t.moist.toNat = min 100 ((200 * r.toNat + 4095) / 8190)
      ∧ t.moist.toNat = min 100 ((100 * r.toNat + 2047) / 4095)

/-- R102: the properties the document requires of `scale`. -/
def Obligations.ScaleIsMonotoneWithinHundred : Prop :=
  (∀ r r' : Nat, r ≤ r' → scaleRaw r ≤ scaleRaw r') ∧ (∀ r : Nat, scaleRaw r ≤ 100) ∧ scaleRaw 0 = 0
    ∧ scaleRaw 4095 = 100

/-- R105: rounding never meets a tie, so every round to nearest `q` of `100 r / 4095`, whichever way it breaks ties, gives the
same result; and the first raw value of each percentage. -/
def Obligations.ScaleRoundsToNearestWithoutTies : Prop :=
  (∀ r k : Nat, 200 * r ≠ 4095 * (2 * k + 1))
    ∧ (∀ r q : Nat, 200 * r ≤ 8190 * q + 4095 → 8190 * q ≤ 200 * r + 4095 → scaleRaw r = min 100 q)
    ∧ (∀ r p : Nat, p ≤ 100 → (p ≤ scaleRaw r ↔ 8190 * p ≤ 200 * r + 4095))
    ∧ scaleRaw 1412 = 34 ∧ scaleRaw 1413 = 35 ∧ scaleRaw 1863 = 45 ∧ scaleRaw 1864 = 46

/-- R101: when the clamp acts: never with a port of 12 bits, and otherwise exactly from raw value 4116 on; and `moist` never
holds a value above 100: not in the reset state, and no step puts one there. -/
def Obligations.ScaleClampActsFrom4116 : Prop :=
  (∀ r : Nat, scaleRaw r = (200 * r + 4095) / 8190 ↔ r < 4116)
    ∧ (∀ s : State, s.cfg.rawW = 12 → scaleRaw (rawPort s) = (200 * rawPort s + 4095) / 8190)
    ∧ (∀ r : Nat, 4075 ≤ r → r ≤ 4115 → (200 * r + 4095) / 8190 = 100)
    ∧ (200 * 4116 + 4095) / 8190 = 101
    ∧ (∀ r : Nat, scaleRaw r ≤ 100)
    ∧ State.reset.moist.toNat ≤ 100
    ∧ (∀ s s' : State, s.moist.toNat ≤ 100 → step s = .next s' → s'.moist.toNat ≤ 100)

/-- R180, R181: APPLY sets the output level and nothing else, and applying the same state again changes nothing. The field
`act` and its use here are the model's choice (log entries 7 and 8). -/
def Obligations.ApplyIsIdempotent : Prop :=
  ∀ (s : State) (w : BitVec 1), s.cfg.legal = true →
    exec (.apply w) s = .next { s with act := (w.getLsbD 0) ^^ s.cfg.actInvert }
      ∧ ∀ t, exec (.apply w) s = .next t → exec (.apply w) t = .next t

/-! ### Invariants -/

/-- R33: the invariant holds in the reset state. -/
def Obligations.ResetMeetsTheRegisterInvariant : Prop := State.reset.Inv

/-- R33: every step, from every state that meets it and under every input, keeps the invariant. -/
def Obligations.EveryStepKeepsTheRegisterInvariant : Prop :=
  ∀ s s' : State, s.Inv → step s = .next s' → s'.Inv

/-- R240, R63: no step changes the configuration. The other clauses are about the model's own fields: after every step `act` is
the level of the port `act_o` (log entry 7), and the edge's inputs are used up (`env` and `edge`, log entry 1). -/
def Obligations.ConfigurationConstantAndSinkFollows : Prop :=
  ∀ s s' : State, step s = .next s' →
    s'.cfg = s.cfg ∧ s'.act = s'.actO ∧ s'.env = s.env.tail ∧ s'.edge = s.edge + 1

/-- R29, R77, R78: the outputs as functions of the state, with every code as a numeral; exactly one of busy, done and idle.
R76, R32: the result word and the reading in every state that meets the invariant. -/
def Obligations.ResultWordHasOneOfItsForms : Prop :=
  ∀ s : State,
    ((s.dqDriveLow = true ↔ s.phase = .startLow)
      ∧ (s.busyO = true ↔ s.phase ≠ .idle ∧ s.phase ≠ .done ∧ s.phase ≠ .failed)
      ∧ (s.doneO = true ↔ s.phase = .done ∨ s.phase = .failed) ∧ (s.validO = true ↔ s.phase = .done)
      ∧ s.humO = s.hum ∧ s.moistO = s.moist ∧ s.wateringO = s.watering ∧ s.actO = (s.watering ^^ s.cfg.actInvert))
    ∧ ((s.phase = .idle → s.phaseO = 0) ∧ (s.phase = .startLow → s.phaseO = 1) ∧ (s.phase = .startSettle → s.phaseO = 2)
      ∧ (s.phase = .presResp → s.phaseO = 3) ∧ (s.phase = .presLow → s.phaseO = 4) ∧ (s.phase = .presHigh → s.phaseO = 5)
      ∧ (s.phase = .bitWait → s.phaseO = 6) ∧ (s.phase = .bitDelay → s.phaseO = 7) ∧ (s.phase = .bitEnd → s.phaseO = 8)
      ∧ (s.phase = .done → s.phaseO = 9) ∧ (s.phase = .failed → s.phaseO = 10))
    ∧ ((s.err = none → s.errO = 0) ∧ (s.err = some .noResponse → s.errO = 1)
      ∧ (s.err = some .presenceLowTimeout → s.errO = 2) ∧ (s.err = some .presenceHighTimeout → s.errO = 3)
      ∧ (s.err = some .bitStartTimeout → s.errO = 4) ∧ (s.err = some .bitEndTimeout → s.errO = 5)
      ∧ (s.err = some .checksumMismatch → s.errO = 6))
    ∧ ((s.busyO = true ∧ s.doneO = false ∧ s.phase ≠ .idle) ∨ (s.busyO = false ∧ s.doneO = true ∧ s.phase ≠ .idle)
      ∨ (s.busyO = false ∧ s.doneO = false ∧ s.phase = .idle))
    ∧ (s.Inv →
      (s.phase = .idle ∨ s.busyO = true → s.doneO = false ∧ s.resultWord = 0 ∧ s.reading = none)
      ∧ (s.phase = .done → s.busyO = false ∧ s.doneO = true ∧ s.resultWord.toNat = 0x800 + s.hum.toNat
          ∧ s.reading = some (.valid s.hum))
      ∧ (s.phase = .failed → s.busyO = false ∧ s.doneO = true ∧ 1 ≤ s.errO.toNat ∧ s.errO.toNat ≤ 6
          ∧ s.resultWord.toNat = 0x100 * s.errO.toNat ∧ ∃ e, s.err = some e ∧ s.reading = some (.invalid e)))

/-! ### What the environment can and cannot influence -/

/-- R8, R211: `rst` beats everything, then `tick = 0` holds everything: the inputs behind it are not read. -/
def Obligations.ResetAndHoldIgnoreOtherInputs : Prop :=
  ∀ (s : State) (i j : Inputs) (e : List Inputs),
    (i.rst = true → j.rst = true → step { s with env := i :: e } = step { s with env := j :: e })
    ∧ (i.rst = false → j.rst = false → i.tick = false → j.tick = false →
        step { s with env := i :: e } = step { s with env := j :: e })

/-- R113, R37: during a read `start` and `raw` cannot influence the next state, so a second request leaves no trace. -/
def Obligations.StartAndRawIgnoredWhileBusy : Prop :=
  ∀ (s : State) (i : Inputs) (st : Bool) (r : Nat) (e : List Inputs), s.phase.busy = true →
    step { s with env := i :: e } = step { s with env := { i with start := st, raw := r } :: e }

/-- R51: at an edge that is not one of the sampling edges the line level cannot influence the next state. -/
def Obligations.LineIgnoredOutsideSamples : Prop :=
  ∀ (s : State) (i : Inputs) (l : Bool) (e : List Inputs), i.tick = false ∨ s.usesLine = false →
    step { s with env := i :: e } = step { s with env := { i with dq := l } :: e }

/-- R186: `moist` is written only where `start` is accepted (reset apart), there with `scale(raw)`; `raw` is read at no other
edge. -/
def Obligations.MoistureLatchedOnlyAtAcceptance : Prop :=
  (∀ s s' : State, step s = .next s' → s.inputs.rst = false →
      (s.atTick ∧ s.phase.busy = false ∧ startPort s = true → s'.moist.toNat = scaleRaw (rawPort s))
      ∧ (¬ (s.atTick ∧ s.phase.busy = false ∧ startPort s = true) → s'.moist = s.moist))
    ∧ ∀ (s : State) (i : Inputs) (r : Nat) (e : List Inputs),
        ¬ (i.rst = false ∧ i.tick = true ∧ s.phase.busy = false ∧ i.start = true) →
        step { s with env := i :: e } = step { s with env := { i with raw := r } :: e }

/-- R187, R168, R169, R28: `watering` is written exactly at the edge that ends a read (reset apart), with `decide` of the old
`watering`, the `moist` of the cycle and the reading that appears at the same edge. -/
def Obligations.WateringDecidedOnlyAtTheEndOfARead : Prop :=
  ∀ s s' : State, step s = .next s' → s.inputs.rst = false →
    (s.endsRead s' → ∃ rd, s'.reading = some rd
        ∧ s'.watering = decideWatering s.cfg s.watering s.moist.toNat rd
        ∧ ∀ h, rd = .valid h → h = frameByte s.frame 0 ∧ checksumOk s.frame = true)
    ∧ (¬ s.endsRead s' → s'.watering = s.watering)

/-- R182: at reset `act_o` takes the value `ACT_INVERT`; at no other edge does it change but at the tick edge that completes a
read. A reset that aborts a read (R232) completes none. -/
def Obligations.ActOutputChangesOnlyWithADecision : Prop :=
  ∀ s s' : State, step s = .next s' →
    (s.inputs.rst = true → s'.actO = s.cfg.actInvert)
    ∧ (s.inputs.rst = false → s'.actO ≠ s.actO → s.atTick ∧ s.endsRead s')

/-- R166, R209: the error code is read by no rule: whatever code stands in `err`, a step leads to the very same state (the edge
writes `err`, with a value that does not depend on it), or to the same state with that code still in `err` (the edge holds
it); which of the two does not depend on the code. -/
def Obligations.ErrorCodeIsReadByNoRule : Prop :=
  ∀ s t : State, step s = .next t →
    (∀ e : Option OneWireError, step { s with err := e } = .next t)
    ∨ (t.err = s.err ∧ ∀ e : Option OneWireError, step { s with err := e } = .next { t with err := e })

/-! ### The sequencer -/

/-- R36: at a tick edge the sequencer stays and counts, moves on in the fixed order with `cnt = 0`, goes back for the next bit,
ends the read, or (from a rest phase) holds or begins a read; nothing else. -/
def Obligations.SequencerMovesOnlyInProtocolOrder : Prop :=
  ∀ s s' : State, s.Inv → s.atTick → step s = .next s' →
    (s.phase.busy = true ∧ s'.phase = s.phase ∧ s'.bitidx = s.bitidx ∧ s'.cnt = s.cnt + 1)
    ∨ (s.phase.follows s'.phase ∧ s'.bitidx = s.bitidx ∧ s'.cnt = 0)
    ∨ (s.phase = .bitDelay ∧ s'.phase = .bitEnd ∧ s'.bitidx = s.bitidx ∧ s'.cnt = 0)
    ∨ (s.phase = .bitEnd ∧ s'.phase = .bitWait ∧ s'.bitidx.val = s.bitidx.val + 1 ∧ s'.cnt = 0)
    ∨ (s.phase = .bitEnd ∧ s.bitidx.val = 39 ∧ s'.phase = .done ∧ s'.bitidx = s.bitidx ∧ s'.cnt = 0)
    ∨ (s.phase.busy = true ∧ s'.phase = .failed ∧ s'.bitidx = s.bitidx ∧ s'.cnt = 0)
    ∨ (s.phase.busy = false ∧ s'.phase = .startLow ∧ s'.bitidx = 0 ∧ s'.cnt = 0)
    ∨ (s.phase.busy = false ∧ s'.phase = s.phase ∧ s'.bitidx = s.bitidx ∧ s'.cnt = s.cnt)

/-- R131, R201 to R206, R77: a code that appears in `err` was raised at this edge, in its one phase, for its one cause. -/
def Obligations.EachErrorComesFromItsPhaseAndCause : Prop :=
  ∀ (s s' : State) (e : OneWireError), step s = .next s' → s'.err = some e → s.err ≠ some e →
    s.atTick ∧ s'.phase = .failed
      ∧ ((∃ l, s.phase.awaits = some (l, e) ∧ lineSample s = !l ∧ s.cnt = phaseBound s.cfg s.phase - 1)
        ∨ (e = .checksumMismatch ∧ s.phase = .bitEnd ∧ s.bitidx.val = 39 ∧ lineSample s = false
            ∧ checksumOk s.frame = false))

/-- R208, R125: `FAILED` is left only by accepting a `start`, which clears the code, or by reset. -/
def Obligations.FailedIsLeftOnlyByStartOrReset : Prop :=
  ∀ s s' : State, step s = .next s' → s.phase = .failed →
    (s.inputs.rst = true ∧ s'.phase = .idle ∧ s'.err = none)
    ∨ (s.atTick ∧ startPort s = true ∧ s'.phase = .startLow ∧ s'.err = none)
    ∨ (s'.phase = .failed ∧ s'.err = s.err ∧ s'.hum = s.hum ∧ s'.bitidx = s.bitidx ∧ s'.frame = s.frame)

/-! ### The frame -/

/-- R54, R56, R65, R73: after 40 samples wire bit `i` is `frame[39 - i]`, bit `7 - (i mod 8)` of byte `i div 8`, and each byte is
the number its eight wire bits spell, most significant first. -/
def Obligations.FrameHoldsWireBitsMostSignificantFirst : Prop :=
  ∀ w : List Bool, w.length = 40 →
    (∀ i : Nat, i < 40 → (frameOfBits w).getLsbD (39 - i) = w.getD i false)
    ∧ (∀ i : Nat, i < 40 → (frameByte (frameOfBits w) (i / 8)).getLsbD (7 - i % 8) = w.getD i false)
    ∧ (∀ k : Nat, k < 5 → (frameByte (frameOfBits w) k).toNat =
        ((List.range 8).map fun j => (w.getD (8 * k + j) false).toNat * 2 ^ (7 - j)).sum)

/-- R123: the worked values of the rule, and "a single flipped bit anywhere in the frame always fails". -/
def Obligations.ChecksumCatchesEverySingleFlip : Prop :=
  (∀ (f : FrameWord) (i : Nat), i < 40 → checksumOk f = true → checksumOk (f ^^^ BitVec.twoPow 40 i) = false)
    ∧ checksumOk (frameOf 255 255 255 255 252) = true ∧ checksumOk (frameOf 0 0 0 0 0) = true
    ∧ checksumOk (frameOf 60 0 20 0 80) = true ∧ checksumOk (frameOf 61 0 20 0 80) = false

/-! ### Reads as a whole -/

/-- R114, R115, R129: after acceptance the line is driven low for exactly `N_START` tick periods and released for exactly
`N_SETTLE` more edges before the first sample, whatever the line and the command ports do; no other register changes
(`act`: log entry 7; `env` and `edge`: log entry 1). -/
def Obligations.StartPulseLastsExactly : Prop :=
  ∀ (s : State) (pre rest : List Inputs), s.cfg.legal = true → s.phase = .startLow → s.cnt = 0 → s.env = pre ++ rest →
    allTicks pre → pre.length = s.cfg.nStart + s.cfg.nSettle →
    (∀ n : Nat, n < pre.length → ∃ t : State, Host.Core.run core n s = .next t ∧ t.dqDriveLow = decide (n < s.cfg.nStart)
        ∧ (n < s.cfg.nStart → t.phase = .startLow ∧ t.cnt = n)
        ∧ (s.cfg.nStart ≤ n → t.phase = .startSettle ∧ t.cnt = n - s.cfg.nStart))
    ∧ Host.Core.run core pre.length s = .next
        { s with phase := .presResp, cnt := 0, act := applySink s.cfg s.watering, env := rest, edge := s.edge + pre.length }

/-- R116, R117 to R120, R122: a polling phase that sees N samples of the other level raises its error at the N-th, not
before. -/
def Obligations.PollFailsAtTheLastAllowedSample : Prop :=
  ∀ (s : State) (l : Bool) (e : OneWireError) (is rest : List Inputs), s.cfg.legal = true →
    s.phase.awaits = some (l, e) → s.cnt = 0 → s.env = is ++ rest → allTicks is → (∀ i ∈ is, i.dq = !l) →
    is.length = phaseBound s.cfg s.phase →
    (∀ n : Nat, n < is.length → ∃ t : State, Host.Core.run core n s = .next t ∧ t.phase = s.phase ∧ t.cnt = n
        ∧ t.watering = s.watering)
    ∧ ∃ t : State, Host.Core.run core is.length s = .next t ∧ t.phase = .failed ∧ t.err = some e ∧ t.hum = 0 ∧ t.cnt = 0
        ∧ t.bitidx = s.bitidx ∧ t.frame = s.frame
        ∧ t.watering = decideWatering s.cfg s.watering s.moist.toNat (.invalid e)

/-- R116: a polling phase that sees the awaited level at any of its N samples, the N-th included, leaves without its error. -/
def Obligations.PollPassesAtAnyAllowedSample : Prop :=
  ∀ (s : State) (l : Bool) (e : OneWireError) (is rest : List Inputs) (i : Inputs), s.cfg.legal = true →
    s.phase.awaits = some (l, e) → s.cnt = 0 → s.err = none → s.env = is ++ i :: rest → allTicks (is ++ [i]) →
    (∀ j ∈ is, j.dq = !l) → i.dq = l → is.length < phaseBound s.cfg s.phase →
    ∃ t : State, Host.Core.run core (is.length + 1) s = .next t ∧ t.phase ≠ s.phase ∧ t.cnt = 0 ∧ t.err ≠ some e ∧ t.env = rest

/-- R128, R22: every tick edge of a read brings its end nearer, whatever the inputs. -/
def Obligations.EveryTickOfAReadCountsDown : Prop :=
  ∀ s : State, s.cfg.legal = true → s.Inv → s.phase.busy = true → s.atTick →
    ∃ t, step s = .next t ∧ edgesLeft t < edgesLeft s

/-- R128, R110, R210: every read ends. From the edge that accepts `start`, under every sequence of tick edges, `DONE` or
`FAILED` is entered at a tick edge from `N_START + N_SETTLE + 1` to `N_START + N_SETTLE + K_max`, and every edge before
finds the block busy. -/
def Obligations.EveryReadEndsWithinItsBound : Prop :=
  ∀ (s : State) (i : Inputs) (is rest : List Inputs), s.cfg.legal = true → s.phase.busy = false →
    s.env = i :: is ++ rest → allTicks (i :: is) → i.start = true →
    is.length = s.cfg.nStart + s.cfg.nSettle + maxSlots s.cfg →
    ∃ n : Nat, s.cfg.nStart + s.cfg.nSettle + 1 ≤ n ∧ n ≤ s.cfg.nStart + s.cfg.nSettle + maxSlots s.cfg
      ∧ (∃ t : State, Host.Core.run core (n + 1) s = .next t ∧ t.doneO = true ∧ t.reading.isSome = true)
      ∧ ∀ m : Nat, m < n → ∃ u : State, Host.Core.run core (m + 1) s = .next u ∧ u.busyO = true

/-- R128: "the bound is reached": under every legal configuration some line makes one read, accepted at edge 0 and in progress
after every edge from there on, end exactly at tick edge `N_START + N_SETTLE + K_max`. -/
def Obligations.TheReadBoundIsReached : Prop :=
  ∀ s : State, s.cfg.legal = true → s.phase.busy = false → ∃ (i : Inputs) (is : List Inputs), allTicks (i :: is) ∧
    i.start = true ∧ is.length = s.cfg.nStart + s.cfg.nSettle + maxSlots s.cfg
    ∧ (∀ m : Nat, m < is.length → ∃ u : State, Host.Core.run core (m + 1) { s with env := i :: is } = .next u
        ∧ u.busyO = true)
    ∧ ∃ t : State, Host.Core.run core (is.length + 1) { s with env := i :: is } = .next t ∧ t.doneO = true

/-- R130, R129, R123, R124, R187: the acceptance region. If the line plays `H<a> L<p> H<q>`, forty bits and `L<z>` within the
bounds, the decoder shifts in exactly the bits that were meant, is busy until it ends after exactly `K` slots, and its result
is the checksum's verdict on them. That `raw` counts modulo `2^RAW_W` is log entry 17; lines outside the region: entry 21. -/
def Obligations.AcceptedScriptsAreDecodedExactly : Prop :=
  ∀ (s : State) (i : Inputs) (pre line rest : List Inputs) (a p q z : Nat) (bits : List WireBit),
    s.cfg.legal = true → s.phase.busy = false → s.env = i :: pre ++ line ++ rest → allTicks (i :: pre ++ line) →
    i.start = true → pre.length = s.cfg.nStart + s.cfg.nSettle → line.map Inputs.dq = readScript a p q bits z →
    a + 1 ≤ s.cfg.nResp → 1 ≤ p → p ≤ s.cfg.nPlow → 1 ≤ q → q ≤ s.cfg.nPhigh → bits.length = 40 →
    bitsAccepted s.cfg bits z = true →
    ∃ (t : State) (rd : Reading), Host.Core.run core (1 + s.cfg.nStart + s.cfg.nSettle + readSlots s.cfg a p q bits) s = .next t
      ∧ t.frame = frameOfBits (bits.map WireBit.v) ∧ t.bitidx.val = 39 ∧ t.reading = some rd
      ∧ rd = (if checksumOk t.frame then .valid (frameByte t.frame 0) else .invalid .checksumMismatch)
      ∧ t.moist.toNat = scaleRaw (i.raw % 2 ^ s.cfg.rawW)
      ∧ t.watering = decideWatering s.cfg s.watering (scaleRaw (i.raw % 2 ^ s.cfg.rawW)) rd
      ∧ ∀ m : Nat, m < s.cfg.nStart + s.cfg.nSettle + readSlots s.cfg a p q bits →
          ∃ u : State, Host.Core.run core (m + 1) s = .next u ∧ u.busyO = true

/-! ### What the block stores -/

/-- R20, R181, R36: the eight registers are all the block stores. Whatever stands on the environment's side (`act`, the inputs
after this edge, the number of the edge: log entries 1 and 7), the registers after a step, and the level then seen on `act_o`,
are a function of the configuration, the registers and the inputs of this edge. -/
def Obligations.RegistersAreAllTheBlockStores : Prop :=
  ∀ s t : State, s.cfg = t.cfg → s.toRegs = t.toRegs → s.inputs = t.inputs →
    (∃ s' t', step s = .next s' ∧ step t = .next t' ∧ s'.cfg = t'.cfg ∧ s'.toRegs = t'.toRegs ∧ s'.act = t'.act)
    ∨ (step s = .refused .illegalConfig ∧ step t = .refused .illegalConfig)
end

