-- ==== Sys2Proof/Laws/Encoding.lean ====
section
/-! SUPPORT. Bytes and words, and the slices of a word that is written as a sum of fields. -/

namespace Sys2Proof

theorem length_leBytes (k w : Nat) : (leBytes k w).length = k := by
  induction k generalizing w with
  | zero => rfl
  | succ k ih => simp [leBytes, ih]

/-- Reading back the low `k` bytes of a number. -/
theorem leWord_leBytes (k w : Nat) : leWord (leBytes k w) = w % 256 ^ k := by
  induction k generalizing w with
  | zero => simp [leBytes, leWord, Nat.mod_one]
  | succ k ih =>
    have h : (BitVec.ofNat 8 w).toNat = w % 256 := BitVec.toNat_ofNat w 8
    rw [leBytes, leWord, ih, h, Nat.pow_succ', Nat.mod_mul]

/-- Writing out again a number that was read from bytes. -/
theorem leBytes_leWord (bs : List Byte) : leBytes bs.length (leWord bs) = bs := by
  induction bs with
  | nil => rfl
  | cons b bs ih =>
    have hb : b.toNat < 256 := b.isLt
    have hd : (b.toNat + 256 * leWord bs) / 256 = leWord bs := by omega
    have hm : BitVec.ofNat 8 (b.toNat + 256 * leWord bs) = b := by
      apply BitVec.eq_of_toNat_eq
      rw [BitVec.toNat_ofNat]
      omega
    rw [List.length_cons, leBytes, leWord, hd, hm, ih]

/-- A field of a word is the operand whose number stands there. -/
theorem field_eq {n : Nat} (b : BitVec n) (w lo : Nat) (h : slice w lo n = b.toNat) : field w lo n = b := by
  apply BitVec.eq_of_toNat_eq
  rw [field, BitVec.toNat_ofNat, h, Nat.mod_eq_of_lt b.isLt]

theorem fits_iff (f : Format) (w : Nat) : f.fits w = true ↔ w < 2 ^ f.width := by simp [Format.fits]

/-- A word of a format fits the format's bytes. -/
theorem width_le_nbytes (f : Format) : 2 ^ f.width ≤ 256 ^ f.nbytes := by cases f <;> decide

end Sys2Proof
end

