-- ==== Sys2Proof/Laws/State.lean ====
section
/-! SUPPORT. One lemma per field per update of `State`, each true by `rfl` and in the simp set, so that no proof unfolds a
record update. -/

namespace Sys2Proof.Machine

variable (s : State)

/-! ### `bump` -/

@[simp] theorem bump_cfg : (bump s).cfg = s.cfg := rfl
@[simp] theorem bump_phase : (bump s).phase = s.phase := rfl
@[simp] theorem bump_cnt : (bump s).cnt = (s.cnt + 1) % 2 ^ s.cfg.cntW := rfl
@[simp] theorem bump_bitidx : (bump s).bitidx = s.bitidx := rfl
@[simp] theorem bump_frame : (bump s).frame = s.frame := rfl
@[simp] theorem bump_hum : (bump s).hum = s.hum := rfl
@[simp] theorem bump_err : (bump s).err = s.err := rfl
@[simp] theorem bump_moist : (bump s).moist = s.moist := rfl
@[simp] theorem bump_watering : (bump s).watering = s.watering := rfl
@[simp] theorem bump_act : (bump s).act = s.act := rfl
@[simp] theorem bump_env : (bump s).env = s.env := rfl
@[simp] theorem bump_edge : (bump s).edge = s.edge := rfl

/-! ### `goto` -/

@[simp] theorem goto_cfg (p : Phase) : (goto p s).cfg = s.cfg := rfl
@[simp] theorem goto_phase (p : Phase) : (goto p s).phase = p := rfl
@[simp] theorem goto_cnt (p : Phase) : (goto p s).cnt = 0 := rfl
@[simp] theorem goto_bitidx (p : Phase) : (goto p s).bitidx = s.bitidx := rfl
@[simp] theorem goto_frame (p : Phase) : (goto p s).frame = s.frame := rfl
@[simp] theorem goto_hum (p : Phase) : (goto p s).hum = s.hum := rfl
@[simp] theorem goto_err (p : Phase) : (goto p s).err = s.err := rfl
@[simp] theorem goto_moist (p : Phase) : (goto p s).moist = s.moist := rfl
@[simp] theorem goto_watering (p : Phase) : (goto p s).watering = s.watering := rfl
@[simp] theorem goto_act (p : Phase) : (goto p s).act = s.act := rfl
@[simp] theorem goto_env (p : Phase) : (goto p s).env = s.env := rfl
@[simp] theorem goto_edge (p : Phase) : (goto p s).edge = s.edge := rfl

/-! ### `latchMoist` -/

@[simp] theorem latchMoist_cfg (r : Nat) : (latchMoist r s).cfg = s.cfg := rfl
@[simp] theorem latchMoist_phase (r : Nat) : (latchMoist r s).phase = s.phase := rfl
@[simp] theorem latchMoist_cnt (r : Nat) : (latchMoist r s).cnt = s.cnt := rfl
@[simp] theorem latchMoist_bitidx (r : Nat) : (latchMoist r s).bitidx = s.bitidx := rfl
@[simp] theorem latchMoist_frame (r : Nat) : (latchMoist r s).frame = s.frame := rfl
@[simp] theorem latchMoist_hum (r : Nat) : (latchMoist r s).hum = s.hum := rfl
@[simp] theorem latchMoist_err (r : Nat) : (latchMoist r s).err = s.err := rfl
@[simp] theorem latchMoist_moist (r : Nat) : (latchMoist r s).moist = BitVec.ofNat 7 (scaleRaw r) := rfl
@[simp] theorem latchMoist_watering (r : Nat) : (latchMoist r s).watering = s.watering := rfl
@[simp] theorem latchMoist_act (r : Nat) : (latchMoist r s).act = s.act := rfl
@[simp] theorem latchMoist_env (r : Nat) : (latchMoist r s).env = s.env := rfl
@[simp] theorem latchMoist_edge (r : Nat) : (latchMoist r s).edge = s.edge := rfl

/-! ### `latchWatering` -/

@[simp] theorem latchWatering_cfg (v : Bool) : (latchWatering v s).cfg = s.cfg := rfl
@[simp] theorem latchWatering_phase (v : Bool) : (latchWatering v s).phase = s.phase := rfl
@[simp] theorem latchWatering_cnt (v : Bool) : (latchWatering v s).cnt = s.cnt := rfl
@[simp] theorem latchWatering_bitidx (v : Bool) : (latchWatering v s).bitidx = s.bitidx := rfl
@[simp] theorem latchWatering_frame (v : Bool) : (latchWatering v s).frame = s.frame := rfl
@[simp] theorem latchWatering_hum (v : Bool) : (latchWatering v s).hum = s.hum := rfl
@[simp] theorem latchWatering_err (v : Bool) : (latchWatering v s).err = s.err := rfl
@[simp] theorem latchWatering_moist (v : Bool) : (latchWatering v s).moist = s.moist := rfl
@[simp] theorem latchWatering_watering (v : Bool) : (latchWatering v s).watering = v := rfl
@[simp] theorem latchWatering_act (v : Bool) : (latchWatering v s).act = s.act := rfl
@[simp] theorem latchWatering_env (v : Bool) : (latchWatering v s).env = s.env := rfl
@[simp] theorem latchWatering_edge (v : Bool) : (latchWatering v s).edge = s.edge := rfl

/-! ### `finish` -/

@[simp] theorem finish_cfg (rd : Reading) : (finish rd s).cfg = s.cfg := rfl
@[simp] theorem finish_phase (rd : Reading) : (finish rd s).phase = s.phase := rfl
@[simp] theorem finish_cnt (rd : Reading) : (finish rd s).cnt = s.cnt := rfl
@[simp] theorem finish_bitidx (rd : Reading) : (finish rd s).bitidx = s.bitidx := rfl
@[simp] theorem finish_frame (rd : Reading) : (finish rd s).frame = s.frame := rfl
@[simp] theorem finish_hum (rd : Reading) : (finish rd s).hum = s.hum := rfl
@[simp] theorem finish_err (rd : Reading) : (finish rd s).err = s.err := rfl
@[simp] theorem finish_moist (rd : Reading) : (finish rd s).moist = s.moist := rfl
@[simp] theorem finish_watering (rd : Reading) : (finish rd s).watering = decideWatering s.cfg s.watering s.moist.toNat rd := rfl
@[simp] theorem finish_act (rd : Reading) : (finish rd s).act = s.act := rfl
@[simp] theorem finish_env (rd : Reading) : (finish rd s).env = s.env := rfl
@[simp] theorem finish_edge (rd : Reading) : (finish rd s).edge = s.edge := rfl

/-! ### `driveAct` -/

@[simp] theorem driveAct_cfg (w : Bool) : (driveAct w s).cfg = s.cfg := rfl
@[simp] theorem driveAct_phase (w : Bool) : (driveAct w s).phase = s.phase := rfl
@[simp] theorem driveAct_cnt (w : Bool) : (driveAct w s).cnt = s.cnt := rfl
@[simp] theorem driveAct_bitidx (w : Bool) : (driveAct w s).bitidx = s.bitidx := rfl
@[simp] theorem driveAct_frame (w : Bool) : (driveAct w s).frame = s.frame := rfl
@[simp] theorem driveAct_hum (w : Bool) : (driveAct w s).hum = s.hum := rfl
@[simp] theorem driveAct_err (w : Bool) : (driveAct w s).err = s.err := rfl
@[simp] theorem driveAct_moist (w : Bool) : (driveAct w s).moist = s.moist := rfl
@[simp] theorem driveAct_watering (w : Bool) : (driveAct w s).watering = s.watering := rfl
@[simp] theorem driveAct_act (w : Bool) : (driveAct w s).act = applySink s.cfg w := rfl
@[simp] theorem driveAct_env (w : Bool) : (driveAct w s).env = s.env := rfl
@[simp] theorem driveAct_edge (w : Bool) : (driveAct w s).edge = s.edge := rfl

/-! ### `accept` -/

@[simp] theorem accept_cfg (r : Nat) : (accept r s).cfg = s.cfg := rfl
@[simp] theorem accept_phase (r : Nat) : (accept r s).phase = .startLow := rfl
@[simp] theorem accept_cnt (r : Nat) : (accept r s).cnt = 0 := rfl
@[simp] theorem accept_bitidx (r : Nat) : (accept r s).bitidx = 0 := rfl
@[simp] theorem accept_frame (r : Nat) : (accept r s).frame = 0 := rfl
@[simp] theorem accept_hum (r : Nat) : (accept r s).hum = 0 := rfl
@[simp] theorem accept_err (r : Nat) : (accept r s).err = none := rfl
@[simp] theorem accept_moist (r : Nat) : (accept r s).moist = BitVec.ofNat 7 (scaleRaw r) := rfl
@[simp] theorem accept_watering (r : Nat) : (accept r s).watering = s.watering := rfl
@[simp] theorem accept_act (r : Nat) : (accept r s).act = s.act := rfl
@[simp] theorem accept_env (r : Nat) : (accept r s).env = s.env := rfl
@[simp] theorem accept_edge (r : Nat) : (accept r s).edge = s.edge := rfl

/-! ### `complete` -/

@[simp] theorem complete_cfg (h : Byte) : (complete h s).cfg = s.cfg := rfl
@[simp] theorem complete_phase (h : Byte) : (complete h s).phase = .done := rfl
@[simp] theorem complete_cnt (h : Byte) : (complete h s).cnt = 0 := rfl
@[simp] theorem complete_bitidx (h : Byte) : (complete h s).bitidx = s.bitidx := rfl
@[simp] theorem complete_frame (h : Byte) : (complete h s).frame = s.frame := rfl
@[simp] theorem complete_hum (h : Byte) : (complete h s).hum = h := rfl
@[simp] theorem complete_err (h : Byte) : (complete h s).err = none := rfl
@[simp] theorem complete_moist (h : Byte) : (complete h s).moist = s.moist := rfl
@[simp] theorem complete_watering (h : Byte) : (complete h s).watering = decideWatering s.cfg s.watering s.moist.toNat (.valid h) := rfl
@[simp] theorem complete_act (h : Byte) : (complete h s).act = s.act := rfl
@[simp] theorem complete_env (h : Byte) : (complete h s).env = s.env := rfl
@[simp] theorem complete_edge (h : Byte) : (complete h s).edge = s.edge := rfl

/-! ### `raise` -/

@[simp] theorem raise_cfg (e : OneWireError) : (raise e s).cfg = s.cfg := rfl
@[simp] theorem raise_phase (e : OneWireError) : (raise e s).phase = .failed := rfl
@[simp] theorem raise_cnt (e : OneWireError) : (raise e s).cnt = 0 := rfl
@[simp] theorem raise_bitidx (e : OneWireError) : (raise e s).bitidx = s.bitidx := rfl
@[simp] theorem raise_frame (e : OneWireError) : (raise e s).frame = s.frame := rfl
@[simp] theorem raise_hum (e : OneWireError) : (raise e s).hum = 0 := rfl
@[simp] theorem raise_err (e : OneWireError) : (raise e s).err = some e := rfl
@[simp] theorem raise_moist (e : OneWireError) : (raise e s).moist = s.moist := rfl
@[simp] theorem raise_watering (e : OneWireError) : (raise e s).watering = decideWatering s.cfg s.watering s.moist.toNat (.invalid e) := rfl
@[simp] theorem raise_act (e : OneWireError) : (raise e s).act = s.act := rfl
@[simp] theorem raise_env (e : OneWireError) : (raise e s).env = s.env := rfl
@[simp] theorem raise_edge (e : OneWireError) : (raise e s).edge = s.edge := rfl

/-! ### `takeSample` -/

@[simp] theorem takeSample_cfg (b : Bool) : (takeSample b s).cfg = s.cfg := rfl
@[simp] theorem takeSample_phase (b : Bool) : (takeSample b s).phase = .bitEnd := rfl
@[simp] theorem takeSample_cnt (b : Bool) : (takeSample b s).cnt = 0 := rfl
@[simp] theorem takeSample_bitidx (b : Bool) : (takeSample b s).bitidx = s.bitidx := rfl
@[simp] theorem takeSample_frame (b : Bool) : (takeSample b s).frame = shiftIn s.frame b := rfl
@[simp] theorem takeSample_hum (b : Bool) : (takeSample b s).hum = s.hum := rfl
@[simp] theorem takeSample_err (b : Bool) : (takeSample b s).err = s.err := rfl
@[simp] theorem takeSample_moist (b : Bool) : (takeSample b s).moist = s.moist := rfl
@[simp] theorem takeSample_watering (b : Bool) : (takeSample b s).watering = s.watering := rfl
@[simp] theorem takeSample_act (b : Bool) : (takeSample b s).act = s.act := rfl
@[simp] theorem takeSample_env (b : Bool) : (takeSample b s).env = s.env := rfl
@[simp] theorem takeSample_edge (b : Bool) : (takeSample b s).edge = s.edge := rfl

/-! ### `loadFrame` -/

@[simp] theorem loadFrame_cfg (f : FrameWord) : (loadFrame f s).cfg = s.cfg := rfl
@[simp] theorem loadFrame_phase (f : FrameWord) : (loadFrame f s).phase = s.phase := rfl
@[simp] theorem loadFrame_cnt (f : FrameWord) : (loadFrame f s).cnt = s.cnt := rfl
@[simp] theorem loadFrame_bitidx (f : FrameWord) : (loadFrame f s).bitidx = 39 := rfl
@[simp] theorem loadFrame_frame (f : FrameWord) : (loadFrame f s).frame = f := rfl
@[simp] theorem loadFrame_hum (f : FrameWord) : (loadFrame f s).hum = s.hum := rfl
@[simp] theorem loadFrame_err (f : FrameWord) : (loadFrame f s).err = s.err := rfl
@[simp] theorem loadFrame_moist (f : FrameWord) : (loadFrame f s).moist = s.moist := rfl
@[simp] theorem loadFrame_watering (f : FrameWord) : (loadFrame f s).watering = s.watering := rfl
@[simp] theorem loadFrame_act (f : FrameWord) : (loadFrame f s).act = s.act := rfl
@[simp] theorem loadFrame_env (f : FrameWord) : (loadFrame f s).env = s.env := rfl
@[simp] theorem loadFrame_edge (f : FrameWord) : (loadFrame f s).edge = s.edge := rfl

/-! ### `resetRegs` -/

@[simp] theorem resetRegs_cfg : (resetRegs s).cfg = s.cfg := rfl
@[simp] theorem resetRegs_phase : (resetRegs s).phase = .idle := rfl
@[simp] theorem resetRegs_cnt : (resetRegs s).cnt = 0 := rfl
@[simp] theorem resetRegs_bitidx : (resetRegs s).bitidx = 0 := rfl
@[simp] theorem resetRegs_frame : (resetRegs s).frame = 0 := rfl
@[simp] theorem resetRegs_hum : (resetRegs s).hum = 0 := rfl
@[simp] theorem resetRegs_err : (resetRegs s).err = none := rfl
@[simp] theorem resetRegs_moist : (resetRegs s).moist = 0 := rfl
@[simp] theorem resetRegs_watering : (resetRegs s).watering = false := rfl
@[simp] theorem resetRegs_act : (resetRegs s).act = s.act := rfl
@[simp] theorem resetRegs_env : (resetRegs s).env = s.env := rfl
@[simp] theorem resetRegs_edge : (resetRegs s).edge = s.edge := rfl

/-! ### `endEdge` -/

@[simp] theorem endEdge_cfg : (endEdge s).cfg = s.cfg := rfl
@[simp] theorem endEdge_phase : (endEdge s).phase = s.phase := rfl
@[simp] theorem endEdge_cnt : (endEdge s).cnt = s.cnt := rfl
@[simp] theorem endEdge_bitidx : (endEdge s).bitidx = s.bitidx := rfl
@[simp] theorem endEdge_frame : (endEdge s).frame = s.frame := rfl
@[simp] theorem endEdge_hum : (endEdge s).hum = s.hum := rfl
@[simp] theorem endEdge_err : (endEdge s).err = s.err := rfl
@[simp] theorem endEdge_moist : (endEdge s).moist = s.moist := rfl
@[simp] theorem endEdge_watering : (endEdge s).watering = s.watering := rfl
@[simp] theorem endEdge_act : (endEdge s).act = applySink s.cfg s.watering := rfl
@[simp] theorem endEdge_env : (endEdge s).env = s.env.tail := rfl
@[simp] theorem endEdge_edge : (endEdge s).edge = s.edge + 1 := rfl

/-! ### `feed` -/

@[simp] theorem feed_cfg (i : Inputs) : (feed i s).cfg = s.cfg := rfl
@[simp] theorem feed_phase (i : Inputs) : (feed i s).phase = s.phase := rfl
@[simp] theorem feed_cnt (i : Inputs) : (feed i s).cnt = s.cnt := rfl
@[simp] theorem feed_bitidx (i : Inputs) : (feed i s).bitidx = s.bitidx := rfl
@[simp] theorem feed_frame (i : Inputs) : (feed i s).frame = s.frame := rfl
@[simp] theorem feed_hum (i : Inputs) : (feed i s).hum = s.hum := rfl
@[simp] theorem feed_err (i : Inputs) : (feed i s).err = s.err := rfl
@[simp] theorem feed_moist (i : Inputs) : (feed i s).moist = s.moist := rfl
@[simp] theorem feed_watering (i : Inputs) : (feed i s).watering = s.watering := rfl
@[simp] theorem feed_act (i : Inputs) : (feed i s).act = s.act := rfl
@[simp] theorem feed_env (i : Inputs) : (feed i s).env = i :: s.env := rfl
@[simp] theorem feed_edge (i : Inputs) : (feed i s).edge = s.edge := rfl

/-! ### What leaves the block's registers alone, and what leaves the environment's side alone -/

@[simp] theorem driveAct_toRegs (w : Bool) : (driveAct w s).toRegs = s.toRegs := rfl
@[simp] theorem endEdge_toRegs : (endEdge s).toRegs = s.toRegs := rfl
@[simp] theorem feed_toRegs (i : Inputs) : (feed i s).toRegs = s.toRegs := rfl
@[simp] theorem bump_toBench : (bump s).toBench = s.toBench := rfl
@[simp] theorem goto_toBench (p : Phase) : (goto p s).toBench = s.toBench := rfl
@[simp] theorem latchMoist_toBench (r : Nat) : (latchMoist r s).toBench = s.toBench := rfl
@[simp] theorem latchWatering_toBench (v : Bool) : (latchWatering v s).toBench = s.toBench := rfl
@[simp] theorem finish_toBench (rd : Reading) : (finish rd s).toBench = s.toBench := rfl
@[simp] theorem accept_toBench (r : Nat) : (accept r s).toBench = s.toBench := rfl
@[simp] theorem complete_toBench (h : Byte) : (complete h s).toBench = s.toBench := rfl
@[simp] theorem raise_toBench (e : OneWireError) : (raise e s).toBench = s.toBench := rfl
@[simp] theorem takeSample_toBench (b : Bool) : (takeSample b s).toBench = s.toBench := rfl
@[simp] theorem loadFrame_toBench (f : FrameWord) : (loadFrame f s).toBench = s.toBench := rfl
@[simp] theorem resetRegs_toBench : (resetRegs s).toBench = s.toBench := rfl

end Sys2Proof.Machine
end

