-- ==== Sys2Proof/Laws/Ops.lean ====
section
/-! SUPPORT. For each shared operation one lemma that says once everything it can do; the provers cite these instead of
unfolding it. `TickCase` is the inversion of a whole tick edge (`41_onewire_decoder.md`, the listing of section 10). -/

namespace Sys2Proof.Machine

/-! ### The guard and the configuration -/

theorem underLegal_of_legal {s : State} (h : s.cfg.legal = true) (t : State) : underLegal s t = .next t := by
  simp [underLegal, h]

theorem underLegal_next {s t t' : State} (h : underLegal s t = .next t') : s.cfg.legal = true ∧ t' = t := by
  unfold underLegal at h
  split at h
  · next hl => exact ⟨hl, by injection h with h; exact h.symm⟩
  · cases h

theorem underLegal_ne_fault {s t : State} {f : Fault} : underLegal s t ≠ .fault f := by cases f

/-- What a legal configuration gives: every busy phase has a bound of at least 1 that `cnt` can count to (R9, R22). -/
theorem Cfg.legal_phaseBound {c : Cfg} (h : c.legal = true) (p : Phase) :
    1 ≤ phaseBound c p ∧ phaseBound c p ≤ 2 ^ c.cntW := by
  simp only [Cfg.legal, Cfg.countOk, Bool.and_eq_true, decide_eq_true_eq] at h
  have := Nat.one_le_two_pow (n := c.cntW)
  cases p <;> simp only [phaseBound] <;> omega

/-- The widths and thresholds of a legal configuration (R9). -/
theorem Cfg.legal_ranges {c : Cfg} (h : c.legal = true) :
    12 ≤ c.rawW ∧ c.moistOnTh ≤ 127 ∧ c.moistOffTh ≤ 127 ∧ c.rhOnLimit ≤ 255 ∧ c.rhOffLimit ≤ 255 := by
  simp only [Cfg.legal, Bool.and_eq_true, decide_eq_true_eq] at h
  omega

/-! ### The pure functions -/

theorem scaleRaw_le (r : Nat) : scaleRaw r ≤ 100 := Nat.min_le_left _ _

/-- The 7-bit register holds the whole result of `scale`. -/
@[simp] theorem toNat_ofNat_scaleRaw (r : Nat) : (BitVec.ofNat 7 (scaleRaw r)).toNat = scaleRaw r := by
  have := scaleRaw_le r
  simp only [BitVec.toNat_ofNat]
  omega

@[simp] theorem decideWatering_idle (c : Cfg) (m : Nat) (rd : Reading) :
    decideWatering c false m rd = onset c m rd := rfl

@[simp] theorem decideWatering_watering (c : Cfg) (m : Nat) (rd : Reading) :
    decideWatering c true m rd = !release c m rd := rfl

/-! ### The poll, the delay, the last edges of a bit -/

/-- Everything a poll can do (R116). -/
theorem wait_cases (level : Bool) (n : Nat) (next : State → State) (e : OneWireError) (s : State) :
    (lineSample s = level ∧ wait level n next e s = next s)
      ∨ (lineSample s = !level ∧ s.cnt = n - 1 ∧ wait level n next e s = raise e s)
      ∨ (lineSample s = !level ∧ s.cnt ≠ n - 1 ∧ wait level n next e s = bump s) := by
  unfold wait
  by_cases h : lineSample s = level
  · exact .inl ⟨h, if_pos h⟩
  · have hn : lineSample s = !level := by cases hl : lineSample s <;> cases level <;> simp_all
    by_cases hc : s.cnt = n - 1
    · exact .inr (.inl ⟨hn, hc, by rw [if_neg h, if_pos hc]⟩)
    · exact .inr (.inr ⟨hn, hc, by rw [if_neg h, if_neg hc]⟩)

/-- Everything a fixed delay can do (R114, R115, R121). -/
theorem delay_cases (n : Nat) (next : State → State) (s : State) :
    (s.cnt = n - 1 ∧ delay n next s = next s) ∨ (s.cnt ≠ n - 1 ∧ delay n next s = bump s) := by
  unfold delay
  by_cases h : s.cnt = n - 1
  · exact .inl ⟨h, if_pos h⟩
  · exact .inr ⟨h, if_neg h⟩

/-- Counting inside a phase's bound never wraps (R22). -/
theorem bump_eq {s : State} (hl : s.cfg.legal = true) (hi : s.cnt < phaseBound s.cfg s.phase)
    (hc : s.cnt ≠ phaseBound s.cfg s.phase - 1) :
    bump s = { s with cnt := s.cnt + 1 } ∧ s.cnt + 1 < phaseBound s.cfg s.phase := by
  have h2 := (Cfg.legal_phaseBound hl s.phase).2
  have h : s.cnt + 1 < phaseBound s.cfg s.phase := by omega
  exact ⟨by unfold bump; rw [Nat.mod_eq_of_lt (by omega)], h⟩

/-- Shifting in a bit doubles the number in the frame and adds the bit (R56). -/
theorem toNat_shiftIn (f : FrameWord) (b : Bool) : (shiftIn f b).toNat = (2 * f.toNat + b.toNat) % 2 ^ 40 := by
  have hf := f.isLt
  have hb : b.toNat < 2 ^ 1 := by cases b <;> decide
  have hv : (BitVec.ofBool b).toNat = b.toNat := by cases b <;> rfl
  rw [shiftIn, BitVec.toNat_append, hv, BitVec.extractLsb'_toNat, ← Nat.shiftLeft_add_eq_or_of_lt hb]
  simp only [Nat.shiftRight_zero, Nat.shiftLeft_eq]
  omega

/-- The edge that accepts a read (R112, R186). -/
theorem accept_eq (r : Nat) (s : State) : accept r s = s.afterAccept r := rfl

/-- The edge that ends a read well (R124, R187). -/
theorem complete_eq (h : Byte) (s : State) : complete h s = s.afterValid h := rfl

/-- The edge that ends a read with an error (R207, R187). -/
theorem raise_eq (e : OneWireError) (s : State) : raise e s = s.afterError e := rfl

/-- Everything validation can do (R123). -/
theorem validate_cases (s : State) :
    (checksumOk s.frame = true ∧ validate s = complete (frameByte s.frame 0) s)
      ∨ (checksumOk s.frame = false ∧ validate s = raise .checksumMismatch s) := by
  unfold validate
  by_cases h : checksumOk s.frame = true
  · exact .inl ⟨h, if_pos h⟩
  · exact .inr ⟨by simpa using h, if_neg h⟩

/-- Everything the low sample of `BIT_END` can do (R122). -/
theorem nextBit_cases (s : State) :
    (∃ h : s.bitidx.val < 39, nextBit s =
        { s with bitidx := ⟨s.bitidx.val + 1, Nat.succ_lt_succ h⟩, phase := .bitWait, cnt := 0 })
      ∨ (s.bitidx.val = 39 ∧ nextBit s = validate s) := by
  unfold nextBit
  by_cases h : s.bitidx.val < 39
  · exact .inl ⟨h, dif_pos h⟩
  · exact .inr ⟨by omega, dif_neg h⟩

/-- The three rest phases behave identically (R112). -/
theorem tickRule_rest {s : State} (h : s.phase.busy = false) (b : Bool) :
    tickRule b s = if b then accept (rawPort s) s else s := by
  unfold tickRule restRule
  cases hp : s.phase <;> simp_all [Phase.busy]

/-- A busy phase does not read `start` (R113). -/
theorem tickRule_busy {s : State} (h : s.phase.busy = true) (b b' : Bool) : tickRule b s = tickRule b' s := by
  unfold tickRule
  cases hp : s.phase <;> simp_all [Phase.busy]

/-! ### Everything a tick edge can do -/

/-- The possible results of a tick edge with a given level of `start`. -/
inductive TickCase (b : Bool) (s : State) : State → Prop where
  /-- A rest phase without `start` holds (R112). -/
  | rest (h : s.phase.busy = false) (hb : b = false) : TickCase b s s
  /-- A rest phase accepts `start` (R112). -/
  | accept (h : s.phase.busy = false) (hb : b = true) : TickCase b s (accept (rawPort s) s)
  /-- A busy phase that is not over counts. -/
  | count (h : s.phase.busy = true) (hc : s.cnt ≠ phaseBound s.cfg s.phase - 1) : TickCase b s (bump s)
  /-- A phase that is over moves on. -/
  | move (p : Phase) (hp : s.phase.follows p) : TickCase b s (goto p s)
  /-- The data sample (R121). -/
  | sample (h : s.phase = .bitDelay) (hc : s.cnt = s.cfg.nSample - 1) : TickCase b s (takeSample (lineSample s) s)
  /-- The next bit (R122). -/
  | bit (h : s.phase = .bitEnd) (hl : lineSample s = false) (hb : s.bitidx.val < 39) :
      TickCase b s { s with bitidx := ⟨s.bitidx.val + 1, Nat.succ_lt_succ hb⟩, phase := .bitWait, cnt := 0 }
  /-- The frame is complete and valid (R123, R124). -/
  | good (h : s.phase = .bitEnd) (hl : lineSample s = false) (hb : s.bitidx.val = 39)
      (hk : checksumOk s.frame = true) : TickCase b s (complete (frameByte s.frame 0) s)
  /-- The frame is complete and its checksum is wrong (R123). -/
  | bad (h : s.phase = .bitEnd) (hl : lineSample s = false) (hb : s.bitidx.val = 39)
      (hk : checksumOk s.frame = false) : TickCase b s (raise .checksumMismatch s)
  /-- The last allowed sample fails (R116). -/
  | timeout (l : Bool) (e : OneWireError) (h : s.phase.awaits = some (l, e)) (hl : lineSample s = !l)
      (hc : s.cnt = phaseBound s.cfg s.phase - 1) : TickCase b s (raise e s)

/-- The inversion of a tick edge: nothing else can happen at it. -/
theorem tickRule_cases (b : Bool) (s : State) : TickCase b s (tickRule b s) := by
  have busyOf : ∀ {p : Phase}, s.phase = p → p.busy = true → s.phase.busy = true := by
    intro p hp hb; rw [hp]; exact hb
  cases hp : s.phase
  case idle | done | failed =>
    have hr : s.phase.busy = false := by rw [hp]; rfl
    rw [tickRule_rest hr]
    cases hb : b
    · exact .rest hr rfl
    · exact .accept hr rfl
  case startLow =>
    rw [show tickRule b s = delay s.cfg.nStart (goto .startSettle) s by unfold tickRule; rw [hp]; rfl]
    rcases delay_cases s.cfg.nStart (goto .startSettle) s with ⟨_, h⟩ | ⟨hc, h⟩ <;> rw [h]
    · exact .move _ (by rw [hp]; trivial)
    · exact .count (busyOf hp rfl) (by rw [hp]; exact hc)
  case startSettle =>
    rw [show tickRule b s = delay s.cfg.nSettle (goto .presResp) s by unfold tickRule; rw [hp]; rfl]
    rcases delay_cases s.cfg.nSettle (goto .presResp) s with ⟨_, h⟩ | ⟨hc, h⟩ <;> rw [h]
    · exact .move _ (by rw [hp]; trivial)
    · exact .count (busyOf hp rfl) (by rw [hp]; exact hc)
  case presResp =>
    rw [show tickRule b s = wait false s.cfg.nResp (goto .presLow) .noResponse s by unfold tickRule; rw [hp]; rfl]
    rcases wait_cases false s.cfg.nResp (goto .presLow) .noResponse s with ⟨_, h⟩ | ⟨hl, hc, h⟩ | ⟨_, hc, h⟩ <;> rw [h]
    · exact .move _ (by rw [hp]; trivial)
    · exact .timeout false _ (by rw [hp]; rfl) hl (by rw [hp]; exact hc)
    · exact .count (busyOf hp rfl) (by rw [hp]; exact hc)
  case presLow =>
    rw [show tickRule b s = wait true s.cfg.nPlow (goto .presHigh) .presenceLowTimeout s by unfold tickRule; rw [hp]; rfl]
    rcases wait_cases true s.cfg.nPlow (goto .presHigh) .presenceLowTimeout s with
      ⟨_, h⟩ | ⟨hl, hc, h⟩ | ⟨_, hc, h⟩ <;> rw [h]
    · exact .move _ (by rw [hp]; trivial)
    · exact .timeout true _ (by rw [hp]; rfl) hl (by rw [hp]; exact hc)
    · exact .count (busyOf hp rfl) (by rw [hp]; exact hc)
  case presHigh =>
    rw [show tickRule b s = wait false s.cfg.nPhigh (goto .bitWait) .presenceHighTimeout s by unfold tickRule; rw [hp]; rfl]
    rcases wait_cases false s.cfg.nPhigh (goto .bitWait) .presenceHighTimeout s with
      ⟨_, h⟩ | ⟨hl, hc, h⟩ | ⟨_, hc, h⟩ <;> rw [h]
    · exact .move _ (by rw [hp]; trivial)
    · exact .timeout false _ (by rw [hp]; rfl) hl (by rw [hp]; exact hc)
    · exact .count (busyOf hp rfl) (by rw [hp]; exact hc)
  case bitWait =>
    rw [show tickRule b s = wait true s.cfg.nBstart (goto .bitDelay) .bitStartTimeout s by unfold tickRule; rw [hp]; rfl]
    rcases wait_cases true s.cfg.nBstart (goto .bitDelay) .bitStartTimeout s with
      ⟨_, h⟩ | ⟨hl, hc, h⟩ | ⟨_, hc, h⟩ <;> rw [h]
    · exact .move _ (by rw [hp]; trivial)
    · exact .timeout true _ (by rw [hp]; rfl) hl (by rw [hp]; exact hc)
    · exact .count (busyOf hp rfl) (by rw [hp]; exact hc)
  case bitDelay =>
    rw [show tickRule b s = delay s.cfg.nSample (takeSample (lineSample s)) s by unfold tickRule; rw [hp]; rfl]
    rcases delay_cases s.cfg.nSample (takeSample (lineSample s)) s with ⟨hc, h⟩ | ⟨hc, h⟩ <;> rw [h]
    · exact .sample hp hc
    · exact .count (busyOf hp rfl) (by rw [hp]; exact hc)
  case bitEnd =>
    rw [show tickRule b s = wait false s.cfg.nBend nextBit .bitEndTimeout s by unfold tickRule; rw [hp]; rfl]
    rcases wait_cases false s.cfg.nBend nextBit .bitEndTimeout s with ⟨hl, h⟩ | ⟨hl, hc, h⟩ | ⟨_, hc, h⟩ <;> rw [h]
    · rcases nextBit_cases s with ⟨hb, h⟩ | ⟨hb, h⟩ <;> rw [h]
      · exact .bit hp hl hb
      · rcases validate_cases s with ⟨hk, h⟩ | ⟨hk, h⟩ <;> rw [h]
        · exact .good hp hl hb hk
        · exact .bad hp hl hb hk
    · exact .timeout false _ (by rw [hp]; rfl) hl (by rw [hp]; exact hc)
    · exact .count (busyOf hp rfl) (by rw [hp]; exact hc)

/-- What no tick rule writes: the configuration and the model's own fields. -/
theorem tickRule_frame (b : Bool) (s : State) :
    (tickRule b s).cfg = s.cfg ∧ (tickRule b s).act = s.act ∧ (tickRule b s).env = s.env
      ∧ (tickRule b s).edge = s.edge := by
  generalize ht : tickRule b s = t
  have h := tickRule_cases b s
  rw [ht] at h
  cases h <;> exact ⟨rfl, rfl, rfl, rfl⟩

end Sys2Proof.Machine
end

