-- ==== Sys2Proof/Laws/PerInstr.lean ====
section
/-! SUPPORT. Statements made per instruction. `EncodesInWidth`: the word of an operation fits the width of its row's format, it
belongs to its own row (`w and mask = match`, `30_encoding.md` R87), and its encoding takes the format's whole bytes. -/

namespace Sys2Proof.Laws

/-- The encoding of `i` is a word of its format and of its row. -/
def EncodesInWidth.Statement (i : Instr) : Prop :=
  i.format.fits (encodeWord i) = true ∧ encodeWord i &&& i.rowMatch.2 = i.rowMatch.1
    ∧ (encode i).length = i.format.nbytes

/-- What is left to show for an operation is a fact about its word. -/
theorem encodesInWidth_of_word {i : Instr} (h : encodeWord i < 2 ^ i.format.width)
    (hm : encodeWord i &&& i.rowMatch.2 = i.rowMatch.1) : EncodesInWidth.Statement i :=
  ⟨(fits_iff _ _).2 h, hm, length_leBytes _ _⟩

/-- The two fixed bits at the head of a DECIDE17 word, above 15 operand bits. -/
theorem decide_head (k x : Nat) (hk : k < 4) (hx : x < 2 ^ 15) : (k * 2 ^ 15 + x) &&& 0x18000 = k * 2 ^ 15 := by
  apply Nat.eq_of_testBit_eq
  intro i
  have hc : (0x18000 : Nat) = 3 * 2 ^ 15 := by decide
  rw [hc, Nat.testBit_and, Nat.testBit_mul_two_pow, Nat.mul_comm k, Nat.testBit_two_pow_mul_add _ hx,
    Nat.testBit_two_pow_mul]
  by_cases hi : 15 ≤ i
  · have hn : ¬ i < 15 := by omega
    have h3 : Nat.testBit 3 (i - 15) = decide (i - 15 < 2) := by
      rw [show (3 : Nat) = 2 ^ 2 - 1 from rfl, Nat.testBit_two_pow_sub_one]
    by_cases h2 : i - 15 < 2
    · simp [hi, hn, h3, h2]
    · have hz : Nat.testBit k (i - 15) = false :=
        Nat.testBit_lt_two_pow (Nat.lt_of_lt_of_le hk (Nat.pow_le_pow_right (n := 2) (by decide) (by omega : 2 ≤ i - 15)))
      simp [hi, hn, h3, hz]
  · simp [hi]

/-- A DECIDE17 operation's word, from its two fixed bits. -/
theorem encodesInWidth_of_decide {i : Instr} (k : Nat) (m : BitVec 7) (h : Byte) (hk : k < 4)
    (hf : i.format = .decide17) (hw : encodeWord i = k * 2 ^ 15 + (m.toNat * 2 ^ 8 + h.toNat))
    (hr : i.rowMatch = (k * 2 ^ 15, 0x18000)) : EncodesInWidth.Statement i := by
  have hm := m.isLt
  have hh := h.isLt
  refine encodesInWidth_of_word ?_ ?_
  · rw [hf, hw]
    simp only [Format.width]
    omega
  · rw [hw, hr]
    exact decide_head k _ hk (by omega)

theorem EncodesInWidth.read : EncodesInWidth.Statement .read := encodesInWidth_of_word (by decide) (by decide)

theorem EncodesInWidth.nop : EncodesInWidth.Statement .nop := encodesInWidth_of_word (by decide) (by decide)

theorem EncodesInWidth.bit0 : EncodesInWidth.Statement .bit0 := encodesInWidth_of_word (by decide) (by decide)

theorem EncodesInWidth.bit1 : EncodesInWidth.Statement .bit1 := encodesInWidth_of_word (by decide) (by decide)

theorem EncodesInWidth.frame (h f t g c : Byte) : EncodesInWidth.Statement (.frame h f t g c) := by
  have h0 := h.isLt
  have h1 := f.isLt
  have h2 := t.isLt
  have h3 := g.isLt
  have h4 := c.isLt
  refine encodesInWidth_of_word ?_ (Nat.and_zero _)
  simp only [encodeWord, Instr.format, Format.width]
  omega

theorem EncodesInWidth.resNone : EncodesInWidth.Statement .resNone := encodesInWidth_of_word (by decide) (by decide)

theorem EncodesInWidth.resValid (h : Byte) : EncodesInWidth.Statement (.resValid h) := by
  refine encodesInWidth_of_word ?_ ?_ <;> revert h <;> decide

theorem EncodesInWidth.resNoResponse : EncodesInWidth.Statement .resNoResponse := encodesInWidth_of_word (by decide) (by decide)

theorem EncodesInWidth.resPresenceLowTimeout : EncodesInWidth.Statement .resPresenceLowTimeout := encodesInWidth_of_word (by decide) (by decide)

theorem EncodesInWidth.resPresenceHighTimeout : EncodesInWidth.Statement .resPresenceHighTimeout := encodesInWidth_of_word (by decide) (by decide)

theorem EncodesInWidth.resBitStartTimeout : EncodesInWidth.Statement .resBitStartTimeout := encodesInWidth_of_word (by decide) (by decide)

theorem EncodesInWidth.resBitEndTimeout : EncodesInWidth.Statement .resBitEndTimeout := encodesInWidth_of_word (by decide) (by decide)

theorem EncodesInWidth.resChecksumMismatch : EncodesInWidth.Statement .resChecksumMismatch := encodesInWidth_of_word (by decide) (by decide)

theorem EncodesInWidth.idle : EncodesInWidth.Statement .idle := encodesInWidth_of_word (by decide) (by decide)

theorem EncodesInWidth.startLow : EncodesInWidth.Statement .startLow := encodesInWidth_of_word (by decide) (by decide)

theorem EncodesInWidth.startSettle : EncodesInWidth.Statement .startSettle := encodesInWidth_of_word (by decide) (by decide)

theorem EncodesInWidth.presResp : EncodesInWidth.Statement .presResp := encodesInWidth_of_word (by decide) (by decide)

theorem EncodesInWidth.presLow : EncodesInWidth.Statement .presLow := encodesInWidth_of_word (by decide) (by decide)

theorem EncodesInWidth.presHigh : EncodesInWidth.Statement .presHigh := encodesInWidth_of_word (by decide) (by decide)

theorem EncodesInWidth.bitWait : EncodesInWidth.Statement .bitWait := encodesInWidth_of_word (by decide) (by decide)

theorem EncodesInWidth.bitDelay : EncodesInWidth.Statement .bitDelay := encodesInWidth_of_word (by decide) (by decide)

theorem EncodesInWidth.bitEnd : EncodesInWidth.Statement .bitEnd := encodesInWidth_of_word (by decide) (by decide)

theorem EncodesInWidth.done : EncodesInWidth.Statement .done := encodesInWidth_of_word (by decide) (by decide)

theorem EncodesInWidth.failed : EncodesInWidth.Statement .failed := encodesInWidth_of_word (by decide) (by decide)

theorem EncodesInWidth.decideIdleValid (m : BitVec 7) (h : Byte) : EncodesInWidth.Statement (.decideIdleValid m h) :=
  encodesInWidth_of_decide 1 m h (by decide) rfl (by simp [encodeWord, Nat.add_assoc]) rfl

theorem EncodesInWidth.decideWateringValid (m : BitVec 7) (h : Byte) : EncodesInWidth.Statement (.decideWateringValid m h) :=
  encodesInWidth_of_decide 3 m h (by decide) rfl (by simp [encodeWord, Nat.add_assoc]) rfl

theorem EncodesInWidth.decideIdleInvalid (m : BitVec 7) (h : Byte) : EncodesInWidth.Statement (.decideIdleInvalid m h) :=
  encodesInWidth_of_decide 0 m h (by decide) rfl (by simp [encodeWord]) rfl

theorem EncodesInWidth.decideWateringInvalid (m : BitVec 7) (h : Byte) : EncodesInWidth.Statement (.decideWateringInvalid m h) :=
  encodesInWidth_of_decide 2 m h (by decide) rfl (by simp [encodeWord, Nat.add_assoc]) rfl

theorem EncodesInWidth.scale (r : BitVec 12) : EncodesInWidth.Statement (.scale r) :=
  encodesInWidth_of_word r.isLt (Nat.and_zero _)

theorem EncodesInWidth.apply (w : BitVec 1) : EncodesInWidth.Statement (.apply w) :=
  encodesInWidth_of_word w.isLt (Nat.and_zero _)

end Sys2Proof.Laws
end

