-- ==== Sys2Proof/Laws/Step.lean ====
section
/-! SUPPORT. What a step can do, once: `step_cases` (if it answers next), `step_reset`, `step_hold`, `step_tick` (what it
answers at an edge of each kind). -/

namespace Sys2Proof.Machine

/-- The code of a phase decodes to that phase's row (R78). -/
def Phase.instr : Phase → Instr
  | .idle => .idle
  | .startLow => .startLow
  | .startSettle => .startSettle
  | .presResp => .presResp
  | .presLow => .presLow
  | .presHigh => .presHigh
  | .bitWait => .bitWait
  | .bitDelay => .bitDelay
  | .bitEnd => .bitEnd
  | .done => .done
  | .failed => .failed

theorem decode_fetchWord (s : State) : decode .phase4 s.fetchWord = .ok s.phase.instr := by
  unfold State.fetchWord
  cases s.phase <;> decide

/-- The meaning of the phase word is the tick rule of the phase. -/
theorem exec_phase_instr (s : State) : exec s.phase.instr s = underLegal s (tickRule (startPort s) s) := by
  unfold tickRule
  cases hp : s.phase <;> rfl

theorem step_reset {s : State} (hl : s.cfg.legal = true) (hr : s.inputs.rst = true) :
    step s = .next (endEdge (resetRegs s)) := by
  simp [step, hr, underLegal_of_legal hl, closeEdge]

theorem step_hold {s : State} (hl : s.cfg.legal = true) (hr : s.inputs.rst = false) (ht : s.inputs.tick = false) :
    step s = .next (endEdge s) := by
  simp [step, hr, ht, underLegal_of_legal hl, closeEdge]

theorem step_tick {s : State} (hl : s.cfg.legal = true) (h : s.atTick) :
    step s = .next (endEdge (tickRule (startPort s) s)) := by
  simp [step, h.1, h.2, tickEdge, decode_fetchWord, exec_phase_instr, underLegal_of_legal hl, closeEdge]

/-- A configuration outside R9 is refused at every edge (R11, U1). -/
theorem step_illegal {s : State} (hl : s.cfg.legal = false) : step s = .refused .illegalConfig := by
  cases hr : s.inputs.rst <;> cases ht : s.inputs.tick <;>
    simp [step, hr, ht, tickEdge, decode_fetchWord, exec_phase_instr, underLegal, hl, closeEdge]

/-- Everything a step can do when it answers next (R8). -/
theorem step_cases {s s' : State} (h : step s = .next s') :
    s.cfg.legal = true ∧
      ((s.inputs.rst = true ∧ s' = endEdge (resetRegs s))
        ∨ (s.inputs.rst = false ∧ s.inputs.tick = false ∧ s' = endEdge s)
        ∨ (s.atTick ∧ s' = endEdge (tickRule (startPort s) s))) := by
  have hl : s.cfg.legal = true := by
    by_contra hn
    simp only [step, tickEdge, decode_fetchWord, exec_phase_instr, underLegal, hn] at h
    split at h <;> [skip; split at h] <;> cases h
  refine ⟨hl, ?_⟩
  cases hr : s.inputs.rst
  · cases ht : s.inputs.tick
    · rw [step_hold hl hr ht] at h
      exact .inr (.inl ⟨rfl, rfl, by injection h with h; exact h.symm⟩)
    · rw [step_tick hl ⟨hr, ht⟩] at h
      exact .inr (.inr ⟨⟨hr, ht⟩, by injection h with h; exact h.symm⟩)
  · rw [step_reset hl hr] at h
    exact .inl ⟨rfl, by injection h with h; exact h.symm⟩

/-- The inputs of a scripted edge. -/
theorem inputs_of_env {s : State} {i : Inputs} {is : List Inputs} (h : s.env = i :: is) : s.inputs = i := by
  simp [State.inputs, h]

/-- One more step at the front of a run. -/
theorem run_succ {s t : State} (h : step s = .next t) (n : Nat) :
    Host.Core.run core (n + 1) s = Host.Core.run core n t := by
  have h' : core.step s = .next t := h
  simp only [Host.Core.run, h']

/-- A run that stops at its first step. -/
theorem run_refused {s : State} {r : Refusal} (h : step s = .refused r) (n : Nat) :
    Host.Core.run core (n + 1) s = .refused r := by
  have h' : core.step s = .refused r := h
  simp only [Host.Core.run, h']

/-- Two runs in a row. -/
theorem run_add (m n : Nat) {s t : State} (h : Host.Core.run core m s = .next t) :
    Host.Core.run core (m + n) s = Host.Core.run core n t := by
  induction m generalizing s with
  | zero =>
    injection h with h
    rw [Nat.zero_add, h]
  | succ m ih =>
    rw [Nat.add_right_comm]
    cases hs : step s with
    | next s' =>
      rw [run_succ hs] at h ⊢
      exact ih h
    | fault r => cases r
    | refused r =>
      rw [run_refused hs] at h
      cases h

end Sys2Proof.Machine
end

