-- ==== Sys2Proof/Tests/Slice0.lean ====
section
/-! SUPPORT. The model's own tests: the WellFormed smoke, the words of the opcode table written out from the encodings of
`spec/30_encoding.md`, one edge per instruction from the vectors of `spec/95_test_vectors.md` (the V, X and P numbers in the
comments), and for every obligation with hypotheses a state that meets them all. -/

open Sys2Proof Sys2Proof.Machine

namespace Sys2Proof.Tests

/-! ### WellFormed: each check refuses a term that breaks it -/

theorem test_legal_default : Cfg.default.legal = true := by decide
theorem test_legal_tiny : Cfg.tiny.legal = true := by decide
theorem test_illegal_tickNs : ({ Cfg.tiny with tickNs := 0 } : Cfg).legal = false := by decide
theorem test_illegal_nStart : ({ Cfg.tiny with nStart := 0 } : Cfg).legal = false := by decide
theorem test_illegal_startTime : ({ Cfg.default with nStart := 17999 } : Cfg).legal = false := by decide
theorem test_illegal_nSettle : ({ Cfg.tiny with nSettle := 0 } : Cfg).legal = false := by decide
theorem test_illegal_nResp : ({ Cfg.tiny with nResp := 0 } : Cfg).legal = false := by decide
theorem test_illegal_nPlow : ({ Cfg.tiny with nPlow := 65537 } : Cfg).legal = false := by decide
theorem test_illegal_nPhigh : ({ Cfg.tiny with nPhigh := 0 } : Cfg).legal = false := by decide
theorem test_illegal_nBstart : ({ Cfg.tiny with nBstart := 0 } : Cfg).legal = false := by decide
theorem test_illegal_nSample : ({ Cfg.tiny with nSample := 0 } : Cfg).legal = false := by decide
theorem test_illegal_nBend : ({ Cfg.tiny with nBend := 0 } : Cfg).legal = false := by decide
theorem test_illegal_cntW : ({ Cfg.default with cntW := 14 } : Cfg).legal = false := by decide
/-- Outside the sampling window of R236 (28 ticks of 1 microsecond are not more than 28), legal all the same (log entry 22). -/
theorem test_legal_outside_window : ({ Cfg.default with nSample := 28 } : Cfg).legal = true := by decide
theorem test_illegal_rawW : ({ Cfg.default with rawW := 11 } : Cfg).legal = false := by decide
theorem test_illegal_moistOnTh : ({ Cfg.default with moistOnTh := 128 } : Cfg).legal = false := by decide
theorem test_illegal_moistOffTh : ({ Cfg.default with moistOffTh := 128 } : Cfg).legal = false := by decide
theorem test_illegal_rhOnLimit : ({ Cfg.default with rhOnLimit := 256 } : Cfg).legal = false := by decide
theorem test_illegal_rhOffLimit : ({ Cfg.default with rhOffLimit := 256 } : Cfg).legal = false := by decide

/-- A word with the bit just above its format's width, in each format. -/
theorem test_words_too_wide :
    Format.cmd.fits 2 = false ∧ Format.symbol.fits 2 = false ∧ Format.frame40.fits 0x10000000000 = false
      ∧ Format.res12.fits 0x1000 = false ∧ Format.phase4.fits 0x10 = false ∧ Format.decide17.fits 0x20000 = false
      ∧ Format.scaleFunc.fits 0x1000 = false ∧ Format.applyFunc.fits 2 = false := by decide

/-! ### Decoding: words written out from the encodings (R71, R72, R76 to R81) -/

theorem test_decode_read : decode .cmd [0b1#8] = .ok .read := by decide
theorem test_decode_nop : decode .cmd [0b0#8] = .ok .nop := by decide
theorem test_decode_bit0 : decode .symbol [0b0#8] = .ok .bit0 := by decide
theorem test_decode_bit1 : decode .symbol [0b1#8] = .ok .bit1 := by decide
-- V29a: bytes 200, 100, 0, 0, 44; the first byte sent is bits 39..32
theorem test_decode_frame :
    decode .frame40 [0b00101100#8, 0b00000000#8, 0b00000000#8, 0b01100100#8, 0b11001000#8]
      = .ok (.frame 200 100 0 0 44) := by decide
theorem test_decode_resNone : decode .res12 [0b00000000#8, 0b0000#8] = .ok .resNone := by decide
theorem test_decode_resValid : decode .res12 [0b11111111#8, 0b1000#8] = .ok (.resValid 255) := by decide
theorem test_decode_resNoResponse : decode .res12 [0b00000000#8, 0b0001#8] = .ok .resNoResponse := by decide
theorem test_decode_resPresenceLowTimeout :
    decode .res12 [0b00000000#8, 0b0010#8] = .ok .resPresenceLowTimeout := by decide
theorem test_decode_resPresenceHighTimeout :
    decode .res12 [0b00000000#8, 0b0011#8] = .ok .resPresenceHighTimeout := by decide
theorem test_decode_resBitStartTimeout :
    decode .res12 [0b00000000#8, 0b0100#8] = .ok .resBitStartTimeout := by decide
theorem test_decode_resBitEndTimeout : decode .res12 [0b00000000#8, 0b0101#8] = .ok .resBitEndTimeout := by decide
theorem test_decode_resChecksumMismatch :
    decode .res12 [0b00000000#8, 0b0110#8] = .ok .resChecksumMismatch := by decide
theorem test_decode_idle : decode .phase4 [0b0000#8] = .ok .idle := by decide
theorem test_decode_startLow : decode .phase4 [0b0001#8] = .ok .startLow := by decide
theorem test_decode_startSettle : decode .phase4 [0b0010#8] = .ok .startSettle := by decide
theorem test_decode_presResp : decode .phase4 [0b0011#8] = .ok .presResp := by decide
theorem test_decode_presLow : decode .phase4 [0b0100#8] = .ok .presLow := by decide
theorem test_decode_presHigh : decode .phase4 [0b0101#8] = .ok .presHigh := by decide
theorem test_decode_bitWait : decode .phase4 [0b0110#8] = .ok .bitWait := by decide
theorem test_decode_bitDelay : decode .phase4 [0b0111#8] = .ok .bitDelay := by decide
theorem test_decode_bitEnd : decode .phase4 [0b1000#8] = .ok .bitEnd := by decide
theorem test_decode_done : decode .phase4 [0b1001#8] = .ok .done := by decide
theorem test_decode_failed : decode .phase4 [0b1010#8] = .ok .failed := by decide
-- watering, valid, then moist 0100011 = 35 and hum 01010000 = 80
theorem test_decode_decideIdleValid :
    decode .decide17 [0b01010000#8, 0b10100011#8, 0b0#8] = .ok (.decideIdleValid 35 80) := by decide
theorem test_decode_decideWateringValid :
    decode .decide17 [0b01010000#8, 0b10100011#8, 0b1#8] = .ok (.decideWateringValid 35 80) := by decide
theorem test_decode_decideIdleInvalid :
    decode .decide17 [0b01010000#8, 0b00100011#8, 0b0#8] = .ok (.decideIdleInvalid 35 80) := by decide
theorem test_decode_decideWateringInvalid :
    decode .decide17 [0b01010000#8, 0b00100011#8, 0b1#8] = .ok (.decideWateringInvalid 35 80) := by decide
-- 1228 = 0100 11001100
theorem test_decode_scale : decode .scaleFunc [0b11001100#8, 0b0100#8] = .ok (.scale 1228) := by decide
theorem test_decode_apply : decode .applyFunc [0b1#8] = .ok (.apply 1) := by decide

/-- Reserved words and wrong lengths are rejected by name (R76, R82, R87). -/
theorem test_decode_rejects :
    decode .phase4 [11#8] = .error .reservedPhase ∧ decode .phase4 [15#8] = .error .reservedPhase
      ∧ decode .res12 [0#8, 7#8] = .error .reservedResult ∧ decode .res12 [1#8, 0#8] = .error .reservedResult
      ∧ decode .res12 [0#8, 9#8] = .error .reservedResult ∧ decode .cmd [2#8] = .error .bitsAboveWidth
      ∧ decode .frame40 [0#8] = .error .tooShort ∧ decode .cmd [1#8, 0#8] = .error .tooLong := by decide

/-- A table word without its format: the first format of the table's order that has it (log entry 5). -/
theorem test_decodeTableWord :
    decodeTableWord 8 1 = some .read ∧ decodeTableWord 8 10 = some .failed ∧ decodeTableWord 8 11 = none
      ∧ decodeTableWord 16 0x600 = some .resChecksumMismatch ∧ decodeTableWord 16 0x4CC = some (.scale 1228)
      ∧ decodeTableWord 24 0x18000 = some (.decideWateringValid 0 0)
      ∧ decodeTableWord 40 0x3C00140050 = some (.frame 60 0 20 0 80) := by decide

/-! ### One edge per instruction -/

/-- The eight registers, in the order of the notation of `95_test_vectors.md`. -/
structure Regs where
  phase : Phase
  cnt : Nat
  bitidx : Nat
  frame : FrameWord
  hum : Byte
  err : Option OneWireError
  moist : BitVec 7
  watering : Bool
deriving DecidableEq, Repr

def regsOf (t : State) : Regs :=
  { phase := t.phase, cnt := t.cnt, bitidx := t.bitidx.val, frame := t.frame, hum := t.hum, err := t.err,
    moist := t.moist, watering := t.watering }

/-- A state under TINY, with the inputs of the coming edges. -/
def tinyState (p : Phase) (cnt : Nat) (k : Fin 40) (f : FrameWord) (h : Byte) (e : Option OneWireError) (m : BitVec 7)
    (w : Bool) (env : List Inputs) : State :=
  { cfg := Cfg.tiny, phase := p, cnt := cnt, bitidx := k, frame := f, hum := h, err := e, moist := m, watering := w,
    act := w, env := env, edge := 0 }

/-- The reset registers under TINY. -/
def tinyReset (env : List Inputs) : State := tinyState .idle 0 0 0 0 none 0 false env

/-- What is seen of the next state, if there is one. -/
def seen {α : Type} (o : Host.Outcome State Fault Refusal) (f : State → α) : Option α :=
  match o with
  | .next t => some (f t)
  | .fault _ => none
  | .refused _ => none

/-- A tick edge with this line level. -/
def line (dq : Bool) : Inputs := tickInputs false dq 0

-- V103, V106
theorem test_read_accepts :
    seen (exec .read (tinyReset [tickInputs true true 1228])) regsOf = some ⟨.startLow, 0, 0, 0, 0, none, 30, false⟩ := by decide +kernel
theorem test_read_ignored_while_busy :
    seen (exec .read (tinyState .bitWait 1 5 7 0 none 30 false [tickInputs true false 4095])) regsOf
      = some ⟨.bitWait, 2, 5, 7, 0, none, 30, false⟩ := by decide
-- V109
theorem test_nop_holds :
    seen (exec .nop (tinyState .done 0 39 0x3C00140050 60 none 30 true [line true])) (fun t => (regsOf t, t.resultWord))
      = some (⟨.done, 0, 39, 0x3C00140050, 60, none, 30, true⟩, 0x83C) := by decide
-- P1, edges 178 and 28
theorem test_bit0 :
    seen (exec .bit0 (tinyState .bitDelay 1 37 0x078002800A 0 none 30 false [line false])) regsOf
      = some ⟨.bitEnd, 0, 37, 0x0F00050014, 0, none, 30, false⟩ := by decide
theorem test_bit1 :
    seen (exec .bit1 (tinyState .bitDelay 1 3 1 0 none 30 false [line true])) regsOf
      = some ⟨.bitEnd, 0, 3, 3, 0, none, 30, false⟩ := by decide
-- V29a, V21
theorem test_frame_carry_dropped :
    seen (exec (.frame 200 100 0 0 44) (tinyReset [])) (fun t => (t.phase, t.resultWord)) = some (.done, 0x8C8) := by decide
theorem test_frame_mismatch :
    seen (exec (.frame 61 0 20 0 80) (tinyReset [])) (fun t => (t.frame, t.resultWord)) = some (0x3D00140050, 0x600) := by
  decide
-- B2, remaining RES values
theorem test_resNone : seen (exec .resNone (tinyReset [])) State.resultWord = some 0 := by decide
-- V57: decide(0, 30, Valid(255)) = 0; V50: decide(0, 30, Valid(60)) = 1
theorem test_resValid_veto :
    seen (exec (.resValid 255) (tinyState .bitEnd 0 39 0xFFFFFFFFFC 0 none 30 false [])) (fun t => (t.resultWord, t.watering))
      = some (0x8FF, false) := by decide
theorem test_resValid_onset :
    seen (exec (.resValid 60) (tinyState .bitEnd 0 39 0x3C00140050 0 none 30 false [])) (fun t => (t.resultWord, t.watering))
      = some (0x83C, true) := by decide
-- B2, B3: the code of each error, and X5 for the decision
theorem test_resNoResponse : seen (exec .resNoResponse (tinyReset [])) State.resultWord = some 0x100 := by decide
theorem test_resPresenceLowTimeout :
    seen (exec .resPresenceLowTimeout (tinyReset [])) State.resultWord = some 0x200 := by decide
theorem test_resPresenceHighTimeout :
    seen (exec .resPresenceHighTimeout (tinyReset [])) State.resultWord = some 0x300 := by decide
theorem test_resBitStartTimeout : seen (exec .resBitStartTimeout (tinyReset [])) State.resultWord = some 0x400 := by decide
theorem test_resBitEndTimeout : seen (exec .resBitEndTimeout (tinyReset [])) State.resultWord = some 0x500 := by decide
theorem test_resChecksumMismatch :
    seen (exec .resChecksumMismatch (tinyState .bitEnd 0 39 1 0 none 50 true [])) regsOf
      = some ⟨.failed, 0, 39, 1, 0, some .checksumMismatch, 50, false⟩ := by decide
-- V101, V104, V105
theorem test_idle_holds : seen (exec .idle (tinyReset [line true])) regsOf = some ⟨.idle, 0, 0, 0, 0, none, 0, false⟩ := by
  decide
theorem test_done_accepts :
    seen (exec .done (tinyState .done 0 39 0x3C00140050 60 none 30 true [tickInputs true true 2048])) regsOf
      = some ⟨.startLow, 0, 0, 0, 0, none, 50, true⟩ := by decide +kernel
theorem test_failed_accepts :
    seen (exec .failed (tinyState .failed 0 17 0x7800 0 (some .bitStartTimeout) 40 true [tickInputs true true 0])) regsOf
      = some ⟨.startLow, 0, 0, 0, 0, none, 0, true⟩ := by decide +kernel
-- P1, edges 1, 2 and 3
theorem test_startLow_counts :
    seen (exec .startLow (tinyState .startLow 0 0 0 0 none 30 false [line true])) (fun t => (t.phase, t.cnt))
      = some (.startLow, 1) := by decide
theorem test_startLow_ends :
    seen (exec .startLow (tinyState .startLow 1 0 0 0 none 30 false [line true])) (fun t => (t.phase, t.cnt))
      = some (.startSettle, 0) := by decide
theorem test_startSettle_ends :
    seen (exec .startSettle (tinyState .startSettle 0 0 0 0 none 30 false [line true])) (fun t => (t.phase, t.cnt))
      = some (.presResp, 0) := by decide
-- V32 slot 0, V31
theorem test_presResp_low :
    seen (exec .presResp (tinyState .presResp 0 0 0 0 none 0 false [line false])) (fun t => (t.phase, t.cnt))
      = some (.presLow, 0) := by decide
theorem test_presResp_fails :
    seen (exec .presResp (tinyState .presResp 0 0 0 0 none 0 false [line true])) regsOf
      = some ⟨.failed, 0, 0, 0, 0, some .noResponse, 0, true⟩ := by decide
-- V37 and V38, slot 4
theorem test_presLow_passes_at_limit :
    seen (exec .presLow (tinyState .presLow 3 0 0 0 none 0 false [line true])) (fun t => (t.phase, t.cnt))
      = some (.presHigh, 0) := by decide
theorem test_presLow_fails :
    seen (exec .presLow (tinyState .presLow 3 0 0 0 none 0 false [line false])) (fun t => (t.phase, t.err))
      = some (.failed, some .presenceLowTimeout) := by decide
-- V39 and V40, slot 5
theorem test_presHigh_passes_at_limit :
    seen (exec .presHigh (tinyState .presHigh 3 0 0 0 none 0 false [line false])) (fun t => (t.phase, t.cnt))
      = some (.bitWait, 0) := by decide
theorem test_presHigh_fails :
    seen (exec .presHigh (tinyState .presHigh 3 0 0 0 none 0 false [line true])) (fun t => (t.phase, t.err))
      = some (.failed, some .presenceHighTimeout) := by decide
-- V41 and V42, slot 5
theorem test_bitWait_passes_at_limit :
    seen (exec .bitWait (tinyState .bitWait 2 0 0 0 none 0 false [line true])) (fun t => (t.phase, t.cnt))
      = some (.bitDelay, 0) := by decide
theorem test_bitWait_fails :
    seen (exec .bitWait (tinyState .bitWait 2 0 0 0 none 0 false [line false])) (fun t => (t.phase, t.err))
      = some (.failed, some .bitStartTimeout) := by decide
-- V46, slots 4 (ignored) and 5
theorem test_bitDelay_ignores :
    seen (exec .bitDelay (tinyState .bitDelay 0 0 0 0 none 0 false [line true])) (fun t => (t.phase, t.cnt, t.frame))
      = some (.bitDelay, 1, 0) := by decide
theorem test_bitDelay_samples :
    seen (exec .bitDelay (tinyState .bitDelay 1 0 0 0 none 0 false [line true])) (fun t => (t.phase, t.cnt, t.frame))
      = some (.bitEnd, 0, 1) := by decide
-- V44 slot 9, V43 slot 9
theorem test_bitEnd_fails :
    seen (exec .bitEnd (tinyState .bitEnd 3 0 1 0 none 0 false [line true])) regsOf
      = some ⟨.failed, 0, 0, 1, 0, some .bitEndTimeout, 0, true⟩ := by decide
theorem test_bitEnd_next_bit :
    seen (exec .bitEnd (tinyState .bitEnd 3 0 1 0 none 0 false [line false])) regsOf
      = some ⟨.bitWait, 0, 1, 1, 0, none, 0, false⟩ := by decide
-- V81, V82, X3, X4
theorem test_decideIdleValid :
    seen (exec (.decideIdleValid 34 79) (tinyReset [])) State.wateringO = some true
      ∧ seen (exec (.decideIdleValid 35 0) (tinyReset [])) State.wateringO = some false
      ∧ seen (exec (.decideIdleValid 30 90) (tinyReset [])) State.wateringO = some false := by decide
-- V87, V88
theorem test_decideWateringValid :
    seen (exec (.decideWateringValid 45 85) (tinyReset [])) State.wateringO = some true
      ∧ seen (exec (.decideWateringValid 45 86) (tinyReset [])) State.wateringO = some false
      ∧ seen (exec (.decideWateringValid 46 0) (tinyReset [])) State.wateringO = some false := by decide
-- V81, V82
theorem test_decideIdleInvalid :
    seen (exec (.decideIdleInvalid 34 255) (tinyReset [])) State.wateringO = some true
      ∧ seen (exec (.decideIdleInvalid 35 0) (tinyReset [])) State.wateringO = some false := by decide
-- V87, X5
theorem test_decideWateringInvalid :
    seen (exec (.decideWateringInvalid 45 255) (tinyReset [])) State.wateringO = some true
      ∧ seen (exec (.decideWateringInvalid 50 0) (tinyReset [])) State.wateringO = some false := by decide
-- V4, V8, V2, V3
theorem test_scale :
    seen (exec (.scale 1228) (tinyReset [])) State.moistO = some 30
      ∧ seen (exec (.scale 4095) (tinyReset [])) State.moistO = some 100
      ∧ seen (exec (.scale 20) (tinyReset [])) State.moistO = some 0
      ∧ seen (exec (.scale 21) (tinyReset [])) State.moistO = some 1 := by decide
-- V10, V11: wider ports
theorem test_scale_clamp : scaleRaw 4096 = 100 ∧ scaleRaw 4116 = 100 ∧ scaleRaw 65535 = 100 := by decide
-- V90 to V93
theorem test_apply :
    seen (exec (.apply 0) (tinyReset [])) (fun t => t.act) = some false
      ∧ seen (exec (.apply 1) (tinyReset [])) (fun t => t.act) = some true
      ∧ seen (exec (.apply 0) { tinyReset [] with cfg := { Cfg.tiny with actInvert := true } }) (fun t => t.act) = some true
      ∧ seen (exec (.apply 1) { tinyReset [] with cfg := { Cfg.tiny with actInvert := true } }) (fun t => t.act) = some false := by
  decide

/-! ### Whole clock edges -/

-- V108, V102, V107, V103
theorem test_step_reset :
    seen (step (tinyState .presLow 2 0 0 0 none 50 true [{ rst := true, tick := false, start := true, raw := 9, dq := false }]))
      regsOf = some ⟨.idle, 0, 0, 0, 0, none, 0, false⟩ := by decide
theorem test_step_no_tick :
    seen (step (tinyReset [{ rst := false, tick := false, start := true, raw := 1228, dq := true }])) regsOf
      = some ⟨.idle, 0, 0, 0, 0, none, 0, false⟩ := by decide
theorem test_step_hold_in_delay :
    seen (step (tinyState .bitDelay 0 5 7 0 none 30 false [holdInputs])) regsOf
      = some ⟨.bitDelay, 0, 5, 7, 0, none, 30, false⟩ := by decide
theorem test_step_accepts :
    seen (step (tinyReset [tickInputs true true 1228])) regsOf = some ⟨.startLow, 0, 0, 0, 0, none, 30, false⟩ := by decide +kernel
theorem test_step_accepts_ports :
    seen (step (tinyReset [tickInputs true true 1228])) (fun t => (t.busyO, t.doneO, t.dqDriveLow, t.phaseO, t.resultWord))
      = some (true, false, true, 1, 0) := by decide +kernel
/-- A 12-bit port keeps the low 12 bits of what is put on it. -/
theorem test_step_raw_width :
    seen (step (tinyReset [tickInputs true true (4096 + 1228)])) State.moistO = some 30 := by decide
theorem test_step_refuses_illegal :
    step { tinyReset [line true] with cfg := { Cfg.tiny with nResp := 0 } } = .refused .illegalConfig := rfl
/-- The first step after reset, with a table word presented. -/
theorem test_fetch_word_reset :
    seen (step (State.reset.withFetchWord 40 0x3C00140050)) State.resultWord = some 0x83C
      ∧ seen (step (State.reset.withFetchWord 16 0x500)) State.resultWord = some 0x500
      ∧ seen (step (State.reset.withFetchWord 8 1)) State.phaseO = some 1
      ∧ seen (step (State.reset.withFetchWord 24 (0x8000 + 30 * 256 + 70))) State.wateringO = some true := by decide

/-! ### Witnesses: for each statement with hypotheses, a concrete state and operands that meet all of them -/

/-- An edge with `rst = 1`. -/
def resetInputs : Inputs := { holdInputs with rst := true }

/-- A busy state: the second bit is awaited. -/
def busyState (env : List Inputs) : State := tinyState .bitWait 2 1 1 0 none 30 false env

/-- The state before the sample that judges frame `f`. -/
def lastState (f : FrameWord) (env : List Inputs) : State := tinyState .bitEnd 3 39 f 0 none 30 false env

/-- The state of V105. -/
def failedState (env : List Inputs) : State := tinyState .failed 0 17 0x7800 0 (some .bitStartTimeout) 40 true env

/-- The state of V109. -/
def doneState (env : List Inputs) : State := tinyState .done 0 39 0x3C00140050 60 none 30 true env

theorem witness_EncodeDecodeRoundTrip : decode .res12 [0x3C#8, 0x08#8] = .ok (.resValid 60) := by decide
theorem witness_WordBelongsToExactlyItsRow :
    decodeWord .decide17 0x1FFFF = .ok (.decideWateringValid 127 255)
      ∧ (Instr.decideWateringValid 0 0).format = .decide17
      ∧ 0x1FFFF &&& (Instr.decideWateringValid 0 0).rowMatch.2 = (Instr.decideWateringValid 0 0).rowMatch.1 := by decide
theorem witness_StepRunsDecodedInstruction :
    (doneState [line true]).atTick ∧ ∃ t, exec .done (doneState [line true]) = .next t :=
  ⟨by decide, _, rfl⟩
theorem witness_StepRunsDecodedInstruction_refused :
    ({ doneState [line true] with cfg := { Cfg.tiny with nResp := 0 } } : State).atTick
      ∧ exec .done { doneState [line true] with cfg := { Cfg.tiny with nResp := 0 } } = .refused .illegalConfig :=
  ⟨by decide, rfl⟩
theorem witness_ResetEdgeClearsEveryRegister :
    (busyState [resetInputs]).cfg.legal = true ∧ (busyState [resetInputs]).inputs.rst = true := by decide
theorem witness_NoTickHoldsEveryRegister :
    (busyState [holdInputs]).cfg.legal = true ∧ (busyState [holdInputs]).inputs.rst = false
      ∧ (busyState [holdInputs]).inputs.tick = false := by decide
theorem witness_OnlyIllegalConfigurationsStop :
    State.reset.cfg.legal = true
      ∧ ({ State.reset with cfg := { Cfg.default with nStart := 17999 } } : State).cfg.legal = false := by decide
theorem witness_PresentedWordIsRunByTheStep :
    decodeTableWord 8 1 = some .read ∧ State.reset.cfg.legal = true
      ∧ Instr.read.format ≠ .decide17 ∧ Instr.read.format ≠ .scaleFunc
      ∧ (Instr.decideIdleValid 30 70).format = .decide17 ∧ (Instr.scale 1228).format = .scaleFunc := by decide
theorem witness_ReadBeginsCycleInRestPhase :
    (failedState [tickInputs true true 4095]).cfg.legal = true
      ∧ (failedState [tickInputs true true 4095]).phase.busy = false := by decide
theorem witness_NopHoldsInRestPhase :
    (doneState [line true]).cfg.legal = true ∧ (doneState [line true]).phase.busy = false := by decide
theorem witness_CommandIgnoredWhileBusy :
    (busyState [line false]).cfg.legal = true ∧ (busyState [line false]).phase.busy = true := by decide
theorem witness_RestPhasesBehaveIdentically : (doneState [line true]).cfg.legal = true := by decide
theorem witness_DataSampleShiftsIntoFrame : (busyState []).cfg.legal = true := by decide
theorem witness_FrameIsJudgedByItsChecksum :
    (tinyReset []).cfg.legal = true
      ∧ ((255 : Byte).toNat + (255 : Byte).toNat + (255 : Byte).toNat + (255 : Byte).toNat) % 256 = (252 : Byte).toNat
      ∧ ((255 : Byte).toNat + (255 : Byte).toNat + (255 : Byte).toNat + (255 : Byte).toNat) % 256 ≠ (253 : Byte).toNat := by
  decide
theorem witness_ResultNoneWritesNothing : (tinyReset []).cfg.legal = true := by decide
theorem witness_ResultValidCompletesTheRead : (lastState 0x3C00140050 []).cfg.legal = true := by decide
theorem witness_ErrorRowsTakeTheirError : (lastState 1 []).cfg.legal = true := by decide
theorem witness_StartPhasesCountTheirDelay :
    Cfg.tiny.legal = true ∧ (tinyState .startLow 1 0 0 0 none 30 false [line true]).cnt < Cfg.tiny.nStart
      ∧ (tinyState .startSettle 0 0 0 0 none 30 false [line true]).cnt < Cfg.tiny.nSettle := by decide
theorem witness_PresRespPollsForLow :
    Cfg.tiny.legal = true ∧ (tinyState .presResp 0 0 0 0 none 30 false [line true]).cnt < Cfg.tiny.nResp := by decide
theorem witness_PresencePhasesPollTheirHalf :
    Cfg.tiny.legal = true ∧ (tinyState .presLow 3 0 0 0 none 30 false [line false]).cnt < Cfg.tiny.nPlow
      ∧ (tinyState .presHigh 3 0 0 0 none 30 false [line true]).cnt < Cfg.tiny.nPhigh := by decide
theorem witness_BitWaitPollsForHigh :
    (busyState [line false]).cfg.legal = true ∧ (busyState [line false]).cnt < Cfg.tiny.nBstart := by decide
theorem witness_BitDelaySamplesOnce :
    Cfg.tiny.legal = true ∧ (tinyState .bitDelay 1 0 0 0 none 30 false [line true]).cnt < Cfg.tiny.nSample := by decide
/-- The three clauses: a high sample at the bound; a low one at bit 38; a low one at bit 39. -/
theorem witness_BitEndGoesOnOrValidates :
    Cfg.tiny.legal = true ∧ (lastState 0 [line true]).cnt < Cfg.tiny.nBend ∧ lineSample (lastState 0 [line true]) = true
      ∧ lineSample ({ lastState 0 [line false] with bitidx := 38 }) = false ∧ (38 : Fin 40).val < 39
      ∧ lineSample (lastState 0 [line false]) = false ∧ (lastState 0 [line false]).bitidx.val = 39 := by decide
theorem witness_DecideIdleValidOnset : (tinyReset []).cfg.legal = true ∧ 80 ≤ (80 : Byte).toNat := by decide
theorem witness_DecideWateringValidRelease :
    (tinyReset []).cfg.legal = true ∧ 45 ≤ 45 ∧ 80 ≤ (80 : Byte).toNat ∧ (80 : Byte).toNat ≤ 85 ∧ 80 ≤ (85 : Byte).toNat
      ∧ (85 : Byte).toNat ≤ 85 := by decide
theorem witness_DecideDegradedModeUsesMoistureAlone : (tinyReset []).cfg.legal = true := by decide
/-- The thresholds, and each clause of the table at the values next to its bounds: 34 and 35, 45 and 46, 79 and 80, 85 and
86. -/
theorem witness_DecideFollowsTheCompleteTable :
    Cfg.default.moistOnTh = 35 ∧ Cfg.default.moistOffTh = 45 ∧ Cfg.default.rhOnLimit = 80 ∧ Cfg.default.rhOffLimit = 85
      ∧ 34 < 35 ∧ 35 ≥ 35 ∧ (79 : Byte).toNat < 80 ∧ (80 : Byte).toNat ≥ 80 ∧ 45 ≤ 45 ∧ 46 > 45 ∧ (86 : Byte).toNat > 85
      ∧ (85 : Byte).toNat ≤ 85 := by decide
/-- The rows of the table at `m = 35` and at `m = 45`. -/
theorem test_decide_table_bounds :
    decideWatering Cfg.default false 35 (.valid 0) = false ∧ decideWatering Cfg.default false 35 (.invalid .noResponse) = false
      ∧ decideWatering Cfg.default true 45 (.valid 86) = false ∧ decideWatering Cfg.default true 45 (.valid 85) = true
      ∧ decideWatering Cfg.default true 45 (.invalid .noResponse) = true := by decide
theorem witness_NoChatterInsideTheDeadBands :
    Cfg.default.moistOnTh ≤ Cfg.default.moistOffTh ∧ Cfg.default.rhOnLimit ≤ Cfg.default.rhOffLimit
      ∧ (∀ ev ∈ [(35, Reading.valid 85), (45, Reading.invalid .noResponse)],
          Cfg.default.moistOnTh ≤ ev.1 ∧ ev.1 ≤ Cfg.default.moistOffTh
            ∧ ∀ h, ev.2 = .valid h → h.toNat ≤ Cfg.default.rhOffLimit)
      ∧ decideWatering Cfg.default false 34 (.valid 79) = true
      ∧ decideWatering Cfg.default true 46 (.valid 79) = false := by
  refine ⟨by decide, by decide, ?_, by decide, by decide⟩
  intro ev hev
  simp only [List.mem_cons, List.not_mem_nil, or_false] at hev
  rcases hev with rfl | rfl
  · exact ⟨by decide, by decide, fun h hh => by cases hh; decide⟩
  · exact ⟨by decide, by decide, fun h hh => by cases hh⟩
theorem witness_ScaleLatchesThePercentage : (tinyReset []).cfg.legal = true := by decide
theorem witness_ScaleIsMonotoneWithinHundred : 4094 ≤ 4095 := by decide
theorem witness_ScaleRoundsToNearestWithoutTies :
    200 * 1413 ≤ 8190 * 35 + 4095 ∧ 8190 * 35 ≤ 200 * 1413 + 4095 ∧ 100 ≤ 100 := by decide
theorem witness_ScaleClampActsFrom4116 :
    4075 ≤ 4115 ∧ 4115 ≤ 4115 ∧ (doneState [line true]).cfg.rawW = 12 ∧ (doneState [line true]).moist.toNat ≤ 100 ∧ ∃ t, step (doneState [line true]) = .next t :=
  ⟨by decide, by decide, by decide, by decide, _, rfl⟩
theorem witness_ApplyIsIdempotent : (tinyReset []).cfg.legal = true ∧ ∃ t, exec (.apply 1) (tinyReset []) = .next t :=
  ⟨by decide, _, rfl⟩

theorem busyState_inv (env : List Inputs) : (busyState env).Inv := by
  constructor <;> simp [busyState, tinyState, phaseBound, Cfg.tiny, Phase.preBit]
theorem doneState_inv (env : List Inputs) : (doneState env).Inv := by
  refine ⟨by simp [doneState, tinyState], by simp [doneState, tinyState], by simp [doneState, tinyState, phaseBound],
    by simp [doneState, tinyState], by simp [doneState, tinyState, Phase.preBit], by simp [doneState, tinyState],
    by simp [doneState, tinyState], fun _ => ?_⟩
  show checksumOk 0x3C00140050 = true ∧ (60 : Byte) = frameByte 0x3C00140050 0
  decide
theorem failedState_inv (env : List Inputs) : (failedState env).Inv := by
  constructor <;> simp [failedState, tinyState, phaseBound, Phase.preBit]

theorem witness_EveryStepKeepsTheRegisterInvariant :
    (busyState [line true]).Inv ∧ ∃ t, step (busyState [line true]) = .next t := ⟨busyState_inv _, _, rfl⟩
theorem witness_ConfigurationConstantAndSinkFollows : ∃ t, step (busyState [line true]) = .next t := ⟨_, rfl⟩
theorem witness_ResultWordHasOneOfItsForms :
    ((tinyReset []).Inv ∧ (tinyReset []).phase = .idle) ∧ ((busyState []).Inv ∧ (busyState []).busyO = true)
      ∧ ((doneState []).Inv ∧ (doneState []).phase = .done) ∧ ((failedState []).Inv ∧ (failedState []).phase = .failed) :=
  ⟨⟨by constructor <;> simp [tinyReset, tinyState, phaseBound, Phase.preBit], rfl⟩, ⟨busyState_inv _, rfl⟩,
    ⟨doneState_inv _, rfl⟩, ⟨failedState_inv _, rfl⟩⟩
theorem witness_ResetAndHoldIgnoreOtherInputs :
    resetInputs.rst = true ∧ { resetInputs with start := true, dq := false }.rst = true ∧ holdInputs.rst = false
      ∧ { holdInputs with start := true, raw := 4095 }.tick = false := by decide
theorem witness_StartAndRawIgnoredWhileBusy : (busyState []).phase.busy = true := by decide
theorem witness_LineIgnoredOutsideSamples :
    holdInputs.tick = false ∧ (tinyState .bitDelay 0 0 0 0 none 30 false []).usesLine = false := by decide
theorem witness_MoistureLatchedOnlyAtAcceptance :
    (doneState [tickInputs true true 0]).inputs.rst = false ∧ (doneState [tickInputs true true 0]).atTick
      ∧ (doneState [tickInputs true true 0]).phase.busy = false ∧ startPort (doneState [tickInputs true true 0]) = true
      ∧ (busyState [line true]).inputs.rst = false ∧ (busyState [line true]).phase.busy = true
      ∧ (line true).start = false := by decide
/-- The read of V20 ends, watering begins; and an edge that ends no read. -/
theorem witness_WateringDecidedOnlyAtTheEndOfARead :
    seen (step (lastState 0x3C00140050 [line false])) (fun t => (t.phase.busy, t.watering)) = some (false, true)
      ∧ (lastState 0x3C00140050 [line false]).phase.busy = true ∧ (lastState 0x3C00140050 [line false]).inputs.rst = false
      ∧ seen (step (busyState [line true])) (fun t => t.phase.busy) = some true := by decide
theorem witness_ActOutputChangesOnlyWithADecision :
    seen (step (lastState 0x3C00140050 [line false])) State.actO = some true
      ∧ (lastState 0x3C00140050 [line false]).actO = false
      ∧ (lastState 0x3C00140050 [line false]).inputs.rst = false
      ∧ seen (step (doneState [resetInputs])) State.actO = some false ∧ (doneState [resetInputs]).actO = true
      ∧ (doneState [resetInputs]).inputs.rst = true
      ∧ seen (step { busyState [resetInputs] with watering := true }) State.actO = some false
      ∧ ({ busyState [resetInputs] with watering := true } : State).actO = true := by decide
theorem witness_ErrorCodeIsReadByNoRule :
    (∃ t, step (failedState [line true]) = .next t) ∧ ∃ t, step (busyState [line false]) = .next t := ⟨⟨_, rfl⟩, ⟨_, rfl⟩⟩
theorem witness_SequencerMovesOnlyInProtocolOrder :
    (busyState [line true]).Inv ∧ (busyState [line true]).atTick ∧ ∃ t, step (busyState [line true]) = .next t :=
  ⟨busyState_inv _, by decide, _, rfl⟩
theorem witness_EachErrorComesFromItsPhaseAndCause :
    seen (step (busyState [line false])) (fun t => t.err) = some (some .bitStartTimeout)
      ∧ (busyState [line false]).err ≠ some .bitStartTimeout
      ∧ seen (step (lastState 1 [line false])) (fun t => t.err) = some (some .checksumMismatch)
      ∧ (lastState 1 [line false]).err ≠ some .checksumMismatch := by decide
theorem witness_FailedIsLeftOnlyByStartOrReset :
    (failedState [line true]).phase = .failed ∧ ∃ t, step (failedState [line true]) = .next t := ⟨rfl, _, rfl⟩

/-- The 40 wire bits of V20, first sent first. -/
def v20Bits : List Bool := (List.range 40).map fun i => Nat.testBit 0x3C00140050 (39 - i)

theorem witness_FrameHoldsWireBitsMostSignificantFirst : v20Bits.length = 40 := by decide
theorem witness_ChecksumCatchesEverySingleFlip : checksumOk 0x3C00140050 = true ∧ 39 < 40 ∧ 0 < 40 := by decide
theorem witness_StartPulseLastsExactly :
    let s := tinyState .startLow 0 0 0 0 none 30 false [line false, tickInputs true true 9, line true]
    s.cfg.legal = true ∧ s.phase = .startLow ∧ s.cnt = 0 ∧ s.env = [line false, tickInputs true true 9, line true] ++ []
      ∧ allTicks [line false, tickInputs true true 9, line true]
      ∧ [line false, tickInputs true true 9, line true].length = s.cfg.nStart + s.cfg.nSettle := by decide
/-- The five polling phases, with the level each awaits and its error. -/
def polls : List (Phase × Bool × OneWireError) :=
  [(.presResp, false, .noResponse), (.presLow, true, .presenceLowTimeout), (.presHigh, false, .presenceHighTimeout),
   (.bitWait, true, .bitStartTimeout), (.bitEnd, false, .bitEndTimeout)]

theorem witness_PollFailsAtTheLastAllowedSample : ∀ x ∈ polls,
    let is := List.replicate (phaseBound Cfg.tiny x.1) (line (!x.2.1))
    let s := tinyState x.1 0 39 1 0 none 30 false is
    s.cfg.legal = true ∧ s.phase.awaits = some (x.2.1, x.2.2) ∧ s.cnt = 0 ∧ s.env = is ++ [] ∧ allTicks is
      ∧ (∀ i ∈ is, i.dq = !x.2.1) ∧ is.length = phaseBound s.cfg s.phase := by decide
theorem witness_PollPassesAtAnyAllowedSample : ∀ x ∈ polls,
    let is := List.replicate (phaseBound Cfg.tiny x.1 - 1) (line (!x.2.1))
    let s := tinyState x.1 0 39 1 0 none 30 false (is ++ line x.2.1 :: [])
    s.cfg.legal = true ∧ s.phase.awaits = some (x.2.1, x.2.2) ∧ s.cnt = 0 ∧ s.err = none
      ∧ s.env = is ++ line x.2.1 :: [] ∧ allTicks (is ++ [line x.2.1]) ∧ (∀ j ∈ is, j.dq = !x.2.1)
      ∧ (line x.2.1).dq = x.2.1 ∧ is.length < phaseBound s.cfg s.phase := by decide
theorem witness_EveryTickOfAReadCountsDown :
    (busyState [line false]).cfg.legal = true ∧ (busyState [line false]).Inv ∧ (busyState [line false]).phase.busy = true
      ∧ (busyState [line false]).atTick := ⟨by decide, busyState_inv _, by decide, by decide⟩
theorem witness_EveryReadEndsWithinItsBound :
    let is := List.replicate (2 + 1 + maxSlots Cfg.tiny) (line false)
    let s := tinyReset (tickInputs true true 1228 :: is ++ [])
    s.cfg.legal = true ∧ s.phase.busy = false ∧ s.env = tickInputs true true 1228 :: is ++ []
      ∧ allTicks (tickInputs true true 1228 :: is) ∧ (tickInputs true true 1228).start = true
      ∧ is.length = s.cfg.nStart + s.cfg.nSettle + maxSlots s.cfg := by
  refine ⟨by decide, by decide, rfl, ?_, rfl, List.length_replicate⟩
  intro i hi
  rcases List.mem_cons.1 hi with rfl | hi
  · rfl
  · rw [List.eq_of_mem_replicate hi]
    rfl
theorem witness_TheReadBoundIsReached : (tinyReset []).cfg.legal = true ∧ (tinyReset []).phase.busy = false := by decide

/-- The wire bits of V20 with every pulse at its limit under TINY (R130): low 3, high 2 for a 0 and 6 for a 1. -/
def limitBits : List WireBit := v20Bits.map fun v => { v := v, l := 3, h := if v then 6 else 2 }

def limitLine : List Inputs := (readScript 0 4 4 limitBits 2).map line

theorem witness_AcceptedScriptsAreDecodedExactly :
    let i := tickInputs true true 1228
    let pre := List.replicate 3 (line false)
    let s := tinyReset (i :: pre ++ limitLine ++ [])
    s.cfg.legal = true ∧ s.phase.busy = false ∧ s.env = i :: pre ++ limitLine ++ [] ∧ allTicks (i :: pre ++ limitLine)
      ∧ i.start = true ∧ pre.length = s.cfg.nStart + s.cfg.nSettle
      ∧ limitLine.map Inputs.dq = readScript 0 4 4 limitBits 2 ∧ 0 + 1 ≤ s.cfg.nResp ∧ 1 ≤ 4 ∧ 4 ≤ s.cfg.nPlow
      ∧ 4 ≤ s.cfg.nPhigh ∧ limitBits.length = 40 ∧ bitsAccepted s.cfg limitBits 2 = true := by
  refine ⟨by decide, by decide, rfl, ?_, rfl, rfl, ?_, by decide, by decide, by decide, by decide, by decide, by decide⟩
  · intro j hj
    rcases List.mem_append.1 hj with hj | hj
    · rcases List.mem_cons.1 hj with rfl | hj
      · rfl
      · rw [List.eq_of_mem_replicate hj]
        rfl
    · obtain ⟨b, _, rfl⟩ := List.mem_map.1 hj
      rfl
  · simp [limitLine, line, tickInputs, Function.comp_def]

/-- Two states with the same registers, configuration and inputs, and different surroundings. -/
theorem witness_RegistersAreAllTheBlockStores :
    let s := doneState [line true]
    let t := { doneState [line true, resetInputs] with act := false, edge := 7 }
    s.cfg = t.cfg ∧ s.toRegs = t.toRegs ∧ s.inputs = t.inputs ∧ s ≠ t := by decide

end Sys2Proof.Tests
end

section
/-! The statements of `spec/00_scope.md`: what a clock edge is (R8), which configurations have a behaviour (R9, R11), and
which inputs an edge can see at all. The one idea behind them is that every operation is the guard `underLegal` around a
state, so the configuration alone decides whether there is a next state. -/

namespace Sys2Proof.Machine

/-! ### The guard around every operation -/

theorem underLegal_of_illegal {s : State} (h : s.cfg.legal = false) (t : State) :
    underLegal s t = .refused .illegalConfig := by
  simp [underLegal, h]

/-- No operation refuses for a reason of its own: each answers through the guard of R11. -/
theorem exec_eq_underLegal (i : Instr) (s : State) : ∃ t, exec i s = underLegal s t := by
  cases i <;> exact ⟨_, rfl⟩

theorem exec_legal {s : State} (h : s.cfg.legal = true) (i : Instr) : ∃ t, exec i s = .next t := by
  obtain ⟨t, ht⟩ := exec_eq_underLegal i s
  exact ⟨t, ht.trans (underLegal_of_legal h t)⟩

theorem exec_illegal {s : State} (h : s.cfg.legal = false) (i : Instr) : exec i s = .refused .illegalConfig := by
  obtain ⟨t, ht⟩ := exec_eq_underLegal i s
  exact ht.trans (underLegal_of_illegal h t)

/-! ### The edge around an operation -/

/-- R8: an edge is a reset edge, a hold edge or a tick edge, and each answers under a legal configuration. -/
theorem step_legal {s : State} (h : s.cfg.legal = true) : ∃ t, step s = .next t := by
  cases hr : s.inputs.rst with
  | true => exact ⟨_, step_reset h hr⟩
  | false =>
    cases ht : s.inputs.tick with
    | true => exact ⟨_, step_tick h ⟨hr, ht⟩⟩
    | false => exact ⟨_, step_hold h hr ht⟩

/-- A tick edge runs the row of the current phase, whatever the configuration. -/
theorem step_tick_eq_closeEdge {s : State} (h : s.atTick) : step s = closeEdge (exec s.phase.instr s) := by
  obtain ⟨hrst, htick⟩ := h
  simp [step, hrst, htick, tickEdge, decode_fetchWord]

/-- States that share a configuration are refused alike, so comparing their steps needs only the legal case. -/
theorem step_congr_of_legal {s t : State} (hc : s.cfg = t.cfg) (h : s.cfg.legal = true → step s = step t) :
    step s = step t := by
  cases hl : s.cfg.legal with
  | true => exact h hl
  | false => rw [step_illegal hl, step_illegal (hc ▸ hl)]

/-! ### The obligations -/

/-- Settles O10: the guard is all that can stop an operation, and each kind of edge answers through it. -/
theorem onlyIllegalConfigurationsStop : Obligations.OnlyIllegalConfigurationsStop :=
  ⟨fun _ hl => ⟨step_legal hl, exec_legal hl⟩, fun _ hl => ⟨step_illegal hl, exec_illegal hl⟩⟩

/-- Settles O6: the operation is the row of the current phase. -/
theorem stepRunsDecodedInstruction : Obligations.StepRunsDecodedInstruction := by
  intro s hs
  refine ⟨s.phase.instr, decode_fetchWord s, fun t ht => ?_, fun r hr => ?_⟩
  · rw [step_tick_eq_closeEdge hs, ht]
    rfl
  · rw [step_tick_eq_closeEdge hs, hr]
    rfl

/-- Settles O9: at such an edge the step is the end of the edge alone. -/
theorem noTickHoldsEveryRegister : Obligations.NoTickHoldsEveryRegister :=
  fun _ hl hrst htick => step_hold hl hrst htick

/-- Settles O41: the state after a reset edge and after a hold edge is written without the head of the script, which is
where this edge's inputs stand. -/
theorem resetAndHoldIgnoreOtherInputs : Obligations.ResetAndHoldIgnoreOtherInputs := by
  intro s i j e
  constructor
  · intro hi hj
    refine step_congr_of_legal rfl fun hl => ?_
    calc step { s with env := i :: e }
        = .next (endEdge (resetRegs { s with env := i :: e })) := step_reset hl hi
      _ = .next (endEdge (resetRegs { s with env := j :: e })) := rfl
      _ = step { s with env := j :: e } := (step_reset (s := { s with env := j :: e }) hl hj).symm
  · intro hi hj hti htj
    refine step_congr_of_legal rfl fun hl => ?_
    calc step { s with env := i :: e }
        = .next (endEdge { s with env := i :: e }) := step_hold hl hi hti
      _ = .next (endEdge { s with env := j :: e }) := rfl
      _ = step { s with env := j :: e } := (step_hold (s := { s with env := j :: e }) hl hj htj).symm

end Sys2Proof.Machine
end

section
/-! The statements of `spec/10_state.md`: the eight registers (R20), their reset values (R39), their invariant (R33) and the
order in which the sequencer moves through the phases (R36). Two ideas carry them. `TickCase` lists what a tick edge can do,
and each of its cases is one operation that keeps the invariant by itself. And every operation commutes with exchanging the
environment's side of the state (`State.withBench`), so that nothing but the registers, the configuration and the inputs of
the edge has an influence. -/

namespace Sys2Proof.Machine

/-! ### The phases -/

theorem Phase.busy_of_preBit {p : Phase} (h : p.preBit = true) : p.busy = true := by
  cases p <;> simp_all [Phase.preBit, Phase.busy]

/-- Only the polling phases await a level, and all of them are busy. -/
theorem Phase.busy_of_awaits {p : Phase} {x : Bool × OneWireError} (h : p.awaits = some x) : p.busy = true := by
  unfold Phase.awaits at h
  split at h <;> simp_all [Phase.busy]

/-- The moves of R114 to R120, told apart by what R33 (g) and (h) say of the two phases. -/
theorem Phase.follows_cases {p q : Phase} (h : p.follows q) :
    (p.preBit = true ∧ q.preBit = true) ∨ (p = .presHigh ∧ q = .bitWait) ∨ (p = .bitWait ∧ q = .bitDelay) := by
  unfold Phase.follows at h
  split at h <;> simp_all [Phase.preBit]

/-! ### Ways to meet the invariant -/

/-- In IDLE only the clauses (b), (c), (e) and (f) of R33 say anything. -/
theorem State.Inv.of_idle {s : State} (hp : s.phase = .idle) (herr : s.err = none) (hhum : s.hum = 0) (hcnt : s.cnt = 0)
    (hm : s.moist.toNat ≤ 100) : s.Inv := by
  constructor <;> simp [hp, herr, hhum, hcnt, hm, phaseBound, Phase.preBit]

/-- In a busy phase nothing has been delivered, so (b) and (c) are that `err` and `hum` are clear, and (i) is empty. -/
theorem State.Inv.of_busy {s : State} (hb : s.phase.busy = true) (herr : s.err = none) (hhum : s.hum = 0)
    (hcnt : s.cnt < phaseBound s.cfg s.phase) (hm : s.moist.toNat ≤ 100)
    (hpre : s.phase.preBit = true → s.bitidx.val = 0 ∧ s.frame = 0)
    (hin : s.phase = .bitWait ∨ s.phase = .bitDelay → s.frame.toNat < 2 ^ s.bitidx.val)
    (hend : s.phase = .bitEnd → s.frame.toNat < 2 ^ (s.bitidx.val + 1)) : s.Inv where
  err_iff := by
    have hf : s.phase ≠ .failed := fun h => by rw [h] at hb; cases hb
    simp [herr, hf]
  hum_zero _ := hhum
  cnt_lt := hcnt
  moist_le := hm
  pre_bit := hpre
  bits_in := hin
  bits_in_end := hend
  done_ok h := by rw [h] at hb; cases hb

theorem State.Inv.err_of_busy {s : State} (hi : s.Inv) (hb : s.phase.busy = true) : s.err = none := by
  have hf : s.phase ≠ .failed := fun h => by rw [h] at hb; cases hb
  simpa [hf] using hi.err_iff

theorem State.Inv.hum_of_busy {s : State} (hi : s.Inv) (hb : s.phase.busy = true) : s.hum = 0 :=
  hi.hum_zero fun h => by rw [h] at hb; cases hb

/-- The invariant speaks of the registers and the configuration only, which the end of an edge leaves alone. -/
theorem State.Inv.endEdge {s : State} (hi : s.Inv) : (endEdge s).Inv :=
  ⟨hi.err_iff, hi.hum_zero, hi.cnt_lt, hi.moist_le, hi.pre_bit, hi.bits_in, hi.bits_in_end, hi.done_ok⟩

/-! ### Every operation of an edge keeps the invariant -/

theorem resetRegs_inv (s : State) : (resetRegs s).Inv := .of_idle rfl rfl rfl rfl (by simp)

/-- `accept` writes every register but `watering`, so it needs nothing of the state before it. -/
theorem accept_inv {s : State} (hl : s.cfg.legal = true) (r : Nat) : (accept r s).Inv :=
  .of_busy rfl rfl rfl (Cfg.legal_phaseBound hl .startLow).1 (by
    rw [accept_moist, toNat_ofNat_scaleRaw]
    exact scaleRaw_le r) (fun _ => ⟨rfl, rfl⟩)
    (by simp) (by simp)

theorem raise_inv {s : State} (e : OneWireError) (hm : s.moist.toNat ≤ 100) : (raise e s).Inv := by
  constructor <;> simp [hm, phaseBound, Phase.preBit]

theorem complete_inv {s : State} (hm : s.moist.toNat ≤ 100) (hk : checksumOk s.frame = true) :
    (complete (frameByte s.frame 0) s).Inv := by
  constructor <;> simp [hm, hk, phaseBound, Phase.preBit]

/-- Counting stays inside the bound of the phase, which is (e); no other clause reads `cnt`. -/
theorem bump_inv {s : State} (hl : s.cfg.legal = true) (hi : s.Inv) (hc : s.cnt ≠ phaseBound s.cfg s.phase - 1) :
    (bump s).Inv := by
  obtain ⟨heq, hlt⟩ := bump_eq hl hi.cnt_lt hc
  rw [heq]
  exact ⟨hi.err_iff, hi.hum_zero, hlt, hi.moist_le, hi.pre_bit, hi.bits_in, hi.bits_in_end, hi.done_ok⟩

/-- A phase that is over hands the frame on: still empty before the first bit, and with `bitidx` bits after it. -/
theorem goto_inv {s : State} {p : Phase} (hl : s.cfg.legal = true) (hi : s.Inv) (hp : s.phase.follows p) :
    (goto p s).Inv := by
  have hcnt : (goto p s).cnt < phaseBound (goto p s).cfg (goto p s).phase := (Cfg.legal_phaseBound hl p).1
  obtain ⟨hs, hq⟩ | ⟨hs, rfl⟩ | ⟨hs, rfl⟩ := Phase.follows_cases hp
  · have hb := Phase.busy_of_preBit hs
    obtain ⟨hwait, hdelay, hend⟩ : p ≠ .bitWait ∧ p ≠ .bitDelay ∧ p ≠ .bitEnd := by
      refine ⟨?_, ?_, ?_⟩ <;> rintro rfl <;> cases hq
    exact .of_busy (Phase.busy_of_preBit hq) (hi.err_of_busy hb) (hi.hum_of_busy hb) hcnt hi.moist_le
      (fun _ => hi.pre_bit hs) (fun h => (h.elim hwait hdelay).elim) (fun h => (hend h).elim)
  · have hb : s.phase.busy = true := by rw [hs]; rfl
    obtain ⟨-, hframe⟩ := hi.pre_bit (by rw [hs]; rfl)
    exact .of_busy rfl (hi.err_of_busy hb) (hi.hum_of_busy hb) hcnt hi.moist_le nofun (by simp [hframe]) nofun
  · have hb : s.phase.busy = true := by rw [hs]; rfl
    exact .of_busy rfl (hi.err_of_busy hb) (hi.hum_of_busy hb) hcnt hi.moist_le nofun (fun _ => hi.bits_in (.inl hs)) nofun

/-- One more bit in the frame: a number below `2 ^ k` becomes one below `2 ^ (k + 1)` (R56). -/
theorem toNat_shiftIn_lt {f : FrameWord} {k : Nat} (h : f.toNat < 2 ^ k) (b : Bool) :
    (shiftIn f b).toNat < 2 ^ (k + 1) := by
  have hb : b.toNat ≤ 1 := Bool.toNat_le b
  rw [toNat_shiftIn, Nat.pow_succ]
  omega

theorem takeSample_inv {s : State} (hl : s.cfg.legal = true) (hi : s.Inv) (hp : s.phase = .bitDelay) (b : Bool) :
    (takeSample b s).Inv := by
  have hb : s.phase.busy = true := by rw [hp]; rfl
  exact .of_busy rfl (hi.err_of_busy hb) (hi.hum_of_busy hb) (Cfg.legal_phaseBound hl .bitEnd).1 hi.moist_le nofun
    (by simp) fun _ => toNat_shiftIn_lt (hi.bits_in (.inr hp)) b

theorem nextBit_inv {s : State} (hl : s.cfg.legal = true) (hi : s.Inv) (hp : s.phase = .bitEnd)
    (hlt : s.bitidx.val < 39) :
    State.Inv { s with bitidx := ⟨s.bitidx.val + 1, Nat.succ_lt_succ hlt⟩, phase := .bitWait, cnt := 0 } := by
  have hb : s.phase.busy = true := by rw [hp]; rfl
  exact .of_busy rfl (hi.err_of_busy hb) (hi.hum_of_busy hb) (Cfg.legal_phaseBound hl .bitWait).1 hi.moist_le nofun
    (fun _ => hi.bits_in_end hp) nofun

/-- Whatever a tick edge does keeps the invariant. -/
theorem TickCase.inv {b : Bool} {s t : State} (hl : s.cfg.legal = true) (hi : s.Inv) (h : TickCase b s t) : t.Inv := by
  cases h with
  | rest => exact hi
  | accept => exact accept_inv hl _
  | count _ hc => exact bump_inv hl hi hc
  | move p hp => exact goto_inv hl hi hp
  | sample hp _ => exact takeSample_inv hl hi hp _
  | bit hp _ hlt => exact nextBit_inv hl hi hp hlt
  | good _ _ _ hk => exact complete_inv hi.moist_le hk
  | bad => exact raise_inv _ hi.moist_le
  | timeout => exact raise_inv _ hi.moist_le

/-! ### The environment's side of the state -/

/-- The same block, with the same registers and configuration, in other surroundings. -/
def State.withBench (e : Bench) (s : State) : State := { s with toBench := e }

theorem State.withBench_toBench {s t : State} (hc : s.cfg = t.cfg) (hr : s.toRegs = t.toRegs) :
    s.withBench t.toBench = t := by
  rw [State.withBench, hc, hr]

section Commutes

variable {e : Bench} {s : State}

theorem lineSample_withBench (h : (s.withBench e).inputs = s.inputs) : lineSample (s.withBench e) = lineSample s :=
  congrArg Inputs.dq h

theorem wait_withBench (h : (s.withBench e).inputs = s.inputs) {next : State → State}
    (hn : next (s.withBench e) = (next s).withBench e) (level : Bool) (n : Nat) (err : OneWireError) :
    wait level n next err (s.withBench e) = (wait level n next err s).withBench e := by
  unfold wait
  rw [lineSample_withBench h, hn, apply_ite (State.withBench e), apply_ite (State.withBench e)]
  rfl

theorem delay_withBench {next : State → State} (hn : next (s.withBench e) = (next s).withBench e) (n : Nat) :
    delay n next (s.withBench e) = (delay n next s).withBench e := by
  unfold delay
  rw [hn, apply_ite (State.withBench e)]
  rfl

theorem validate_withBench : validate (s.withBench e) = (validate s).withBench e := by
  unfold validate
  rw [apply_ite (State.withBench e)]
  rfl

theorem nextBit_withBench : nextBit (s.withBench e) = (nextBit s).withBench e := by
  unfold nextBit
  rw [apply_dite (State.withBench e), validate_withBench]
  rfl

theorem restRule_withBench (h : (s.withBench e).inputs = s.inputs) (b : Bool) :
    restRule b (s.withBench e) = (restRule b s).withBench e := by
  have hraw : rawPort (s.withBench e) = rawPort s := congrArg (fun i : Inputs => i.raw % 2 ^ s.cfg.rawW) h
  cases b with
  | false => rfl
  | true => exact congrArg (accept · (s.withBench e)) hraw

/-- A tick edge reads of the surroundings the inputs of this edge, and writes nothing there. -/
theorem tickRule_withBench (h : (s.withBench e).inputs = s.inputs) (b : Bool) :
    tickRule b (s.withBench e) = (tickRule b s).withBench e := by
  unfold tickRule
  rw [show (s.withBench e).phase = s.phase from rfl]
  cases s.phase with
  | idle | done | failed => exact restRule_withBench h b
  | startLow | startSettle => exact delay_withBench (by rfl) _
  | presResp | presLow | presHigh | bitWait => exact wait_withBench h (by rfl) _ _ _
  | bitDelay =>
    simp only [bitDelayRule, lineSample_withBench h]
    exact delay_withBench (by rfl) _
  | bitEnd => exact wait_withBench h nextBit_withBench _ _ _

/-- The edges of two blocks that differ in their surroundings only do the same to the registers. -/
theorem step_withBench (hl : s.cfg.legal = true) (h : (s.withBench e).inputs = s.inputs) :
    ∃ u : State, step s = .next (endEdge u) ∧ step (s.withBench e) = .next (endEdge (u.withBench e)) := by
  cases hr : s.inputs.rst with
  | true => exact ⟨resetRegs s, step_reset hl hr, step_reset hl (by rw [h, hr])⟩
  | false =>
    cases ht : s.inputs.tick with
    | false => exact ⟨s, step_hold hl hr ht, step_hold hl (by rw [h, hr]) (by rw [h, ht])⟩
    | true =>
      have hstart : startPort (s.withBench e) = startPort s := congrArg Inputs.start h
      have htick : (s.withBench e).atTick := ⟨by rw [h, hr], by rw [h, ht]⟩
      refine ⟨tickRule (startPort s) s, step_tick hl ⟨hr, ht⟩, ?_⟩
      rw [step_tick (s := s.withBench e) hl htick, hstart, tickRule_withBench h]

end Commutes

/-! ### The obligations -/

/-- Settles O38: a reset edge establishes the invariant, a hold edge writes no register, and a tick edge is one of the cases
of `TickCase`. -/
theorem everyStepKeepsTheRegisterInvariant : Obligations.EveryStepKeepsTheRegisterInvariant := by
  intro s s' hi hs
  obtain ⟨hl, ⟨-, rfl⟩ | ⟨-, -, rfl⟩ | ⟨-, rfl⟩⟩ := step_cases hs
  · exact (resetRegs_inv s).endEdge
  · exact hi.endEdge
  · exact ((tickRule_cases (startPort s) s).inv hl hi).endEdge

/-- Settles O48: the clauses are the cases of `TickCase`; that counting does not wrap is (e) of the invariant. -/
theorem sequencerMovesOnlyInProtocolOrder : Obligations.SequencerMovesOnlyInProtocolOrder := by
  intro s s' hi ht hs
  have hl : s.cfg.legal = true := (step_cases hs).1
  rw [step_tick hl ht] at hs
  injection hs with hs
  subst hs
  have hcase := tickRule_cases (startPort s) s
  simp only [endEdge_phase, endEdge_bitidx, endEdge_cnt]
  generalize tickRule (startPort s) s = u at hcase
  cases hcase with
  | rest hb _ => simp [hb]
  | accept hb _ => simp [hb]
  | count hb hc =>
    obtain ⟨heq, -⟩ := bump_eq hl hi.cnt_lt hc
    simp [heq, hb]
  | move p hp => simp [hp]
  | sample hp _ => simp [hp]
  | bit hp _ _ => simp [hp]
  | good hp _ hlast _ => simp [hp, hlast]
  | bad hp _ _ _ => simp [hp, Phase.busy]
  | timeout _ _ haw _ _ => simp [Phase.busy_of_awaits haw]

/-- Settles O60: the second state is the first one in other surroundings. -/
theorem registersAreAllTheBlockStores : Obligations.RegistersAreAllTheBlockStores := by
  intro s t hc hr hin
  have hst : s.withBench t.toBench = t := State.withBench_toBench hc hr
  cases hl : s.cfg.legal with
  | false => exact .inr ⟨step_illegal hl, step_illegal (hc ▸ hl)⟩
  | true =>
    obtain ⟨u, hs, ht⟩ := step_withBench (e := t.toBench) hl (by rw [hst, hin])
    rw [hst] at ht
    exact .inl ⟨_, _, hs, ht, rfl, rfl, rfl⟩

/-- Settles O8: a closed fact about one state. -/
theorem resetStateShowsNothing : Obligations.ResetStateShowsNothing := by
  unfold Obligations.ResetStateShowsNothing
  decide

/-- Settles O37: the reset state is idle with every register clear. -/
theorem resetMeetsTheRegisterInvariant : Obligations.ResetMeetsTheRegisterInvariant :=
  .of_idle rfl rfl rfl rfl (by decide)

end Sys2Proof.Machine
end

section
/-! The statements of `spec/20_memory.md`: when the line is read (R51), and how the 40 samples of a read stand in the frame
(R54 to R56, R65). Two ideas carry them. An edge that takes no sample runs a rule in which the line level does not occur. And
each shift puts the newest bit at the right end, so the frame always spells the bits received so far in reverse order. -/

namespace Sys2Proof.Machine

/-! ### Edges that take no sample -/

section Commutes

variable {e : Bench} {s : State}

/-- Before its last edge `BIT_DELAY` only counts (R121). -/
theorem bitDelayRule_of_not_last (h : s.cnt ≠ s.cfg.nSample - 1) : bitDelayRule s = bump s := if_neg h

theorem State.cnt_ne_of_not_usesLine (hp : s.phase = .bitDelay) (hu : s.usesLine = false) :
    s.cnt ≠ s.cfg.nSample - 1 := by
  simpa [State.usesLine, hp] using hu

/-- A tick edge that takes no sample reads of the surroundings the port `raw` alone (R51). -/
theorem tickRule_withBench_of_not_usesLine (hu : s.usesLine = false) (hraw : rawPort (s.withBench e) = rawPort s)
    (b : Bool) : tickRule b (s.withBench e) = (tickRule b s).withBench e := by
  have hrest : restRule b (s.withBench e) = (restRule b s).withBench e := by
    cases b with
    | false => rfl
    | true => exact congrArg (accept · (s.withBench e)) hraw
  unfold tickRule
  rw [show (s.withBench e).phase = s.phase from rfl]
  cases hp : s.phase with
  | idle | done | failed => exact hrest
  | startLow | startSettle => exact delay_withBench (by rfl) _
  | presResp | presLow | presHigh | bitWait | bitEnd => simp [State.usesLine, hp] at hu
  | bitDelay =>
    have hc : s.cnt ≠ s.cfg.nSample - 1 := State.cnt_ne_of_not_usesLine hp hu
    show bitDelayRule (s.withBench e) = (bitDelayRule s).withBench e
    rw [bitDelayRule_of_not_last hc, bitDelayRule_of_not_last (s := s.withBench e) hc]
    rfl

/-- The end of an edge keeps of the surroundings the rest of the script and the number of the edge (R180; log entry 1). -/
theorem endEdge_withBench (hs : e.env.tail = s.env.tail) (hn : e.edge = s.edge) :
    endEdge (s.withBench e) = endEdge s := by
  simp only [endEdge, State.withBench, hs, hn]
  rfl

/-- A tick edge that takes no sample ends alike in two surroundings that agree on `start`, `raw` and the edges to come. -/
theorem step_withBench_of_not_usesLine (hl : s.cfg.legal = true) (hu : s.usesLine = false) (ht : s.atTick)
    (ht' : (s.withBench e).atTick) (hstart : startPort (s.withBench e) = startPort s)
    (hraw : rawPort (s.withBench e) = rawPort s) (hs : e.env.tail = s.env.tail) (hn : e.edge = s.edge) :
    step (s.withBench e) = step s := by
  obtain ⟨-, -, henv, hedge⟩ := tickRule_frame (startPort s) s
  rw [step_tick hl ht, step_tick (s := s.withBench e) hl ht', hstart, tickRule_withBench_of_not_usesLine hu hraw,
    endEdge_withBench (by rw [hs, henv]) (by rw [hn, hedge])]

end Commutes

/-! ### The bits of the frame -/

/-- R56: the sample enters at bit 0 and every other bit moves up by one. -/
theorem getLsbD_shiftIn (f : FrameWord) (b : Bool) {j : Nat} (hj : j < 40) :
    (shiftIn f b).getLsbD j = if j = 0 then b else f.getLsbD (j - 1) := by
  rw [← BitVec.testBit_toNat, toNat_shiftIn, ← Nat.bit_val, Nat.testBit_mod_two_pow]
  cases j with
  | zero => simp
  | succ j => simp [Nat.testBit_bit_succ, BitVec.testBit_toNat, hj]

theorem frameOfBits_concat (w : List Bool) (b : Bool) : frameOfBits (w ++ [b]) = shiftIn (frameOfBits w) b := by
  simp [frameOfBits]

/-- The frame spells the wire bits from its right end on, last received first. -/
theorem getLsbD_frameOfBits (w : List Bool) {j : Nat} (hj : j < 40) :
    (frameOfBits w).getLsbD j = w.reverse.getD j false := by
  induction w using List.reverseRecOn generalizing j with
  | nil => simp [frameOfBits]
  | append_singleton w b ih =>
    rw [frameOfBits_concat, getLsbD_shiftIn _ _ hj, List.reverse_append]
    cases j with
    | zero => rfl
    | succ j => exact ih (by omega)

/-- R65: bit `m` of byte `k`. -/
theorem getLsbD_frameByte (f : FrameWord) (k : Nat) {m : Nat} (hm : m < 8) :
    (frameByte f k).getLsbD m = f.getLsbD (32 - 8 * k + m) := by
  simp [frameByte, hm]

/-- The low `n` bits of a number, most significant first, spell it modulo `2 ^ n`. -/
theorem sum_testBit_msb_first (x n : Nat) :
    ((List.range n).map fun j => (x.testBit (n - 1 - j)).toNat * 2 ^ (n - 1 - j)).sum = x % 2 ^ n := by
  induction n with
  | zero => simp [Nat.mod_one]
  | succ n ih =>
    have hidx : ∀ j, n + 1 - 1 - (j + 1) = n - 1 - j := fun j => by omega
    rw [List.range_succ_eq_map, List.map_cons, List.sum_cons, List.map_map, Nat.mod_pow_succ,
      ← ih, ← Nat.toNat_testBit]
    simp only [Function.comp_def, Nat.succ_eq_add_one, hidx]
    simp [Nat.add_comm, Nat.mul_comm]

/-- R56: of exactly 40 wire bits, bit `i` is `frame[39 - i]`. -/
theorem getLsbD_frameOfBits_wire {w : List Bool} (hw : w.length = 40) {i : Nat} (hi : i < 40) :
    (frameOfBits w).getLsbD (39 - i) = w.getD i false := by
  rw [getLsbD_frameOfBits w (by omega), List.getD_reverse _ (by omega), hw]
  congr 1
  omega

/-- R54: bit `7 - j` of byte `k` is the wire bit `j` places after the byte's first. -/
theorem getLsbD_frameByte_wire {w : List Bool} (hw : w.length = 40) {k j : Nat} (hk : k < 5) (hj : j < 8) :
    (frameByte (frameOfBits w) k).getLsbD (7 - j) = w.getD (8 * k + j) false := by
  rw [getLsbD_frameByte _ _ (by omega), ← getLsbD_frameOfBits_wire hw (by omega)]
  congr 1
  omega

/-! ### The obligations -/

/-- Settles O43: reset and hold edges read no other input, and a tick edge that takes no sample runs the same rule for both
levels. -/
theorem lineIgnoredOutsideSamples : Obligations.LineIgnoredOutsideSamples := by
  intro s i l e hskip
  obtain ⟨hreset, hhold⟩ := resetAndHoldIgnoreOtherInputs s i { i with dq := l } e
  by_cases hr : i.rst = true
  · exact hreset hr hr
  have hr' : i.rst = false := Bool.eq_false_of_not_eq_true hr
  by_cases ht : i.tick = true
  · have hu : s.usesLine = false := hskip.resolve_left (by simp [ht])
    refine step_congr_of_legal rfl fun hl => Eq.symm ?_
    exact step_withBench_of_not_usesLine (s := { s with env := i :: e })
      (e := { s.toBench with env := { i with dq := l } :: e }) hl hu ⟨hr', ht⟩ ⟨hr', ht⟩ rfl rfl rfl rfl
  · have ht' : i.tick = false := Bool.eq_false_of_not_eq_true ht
    exact hhold hr' hr' ht' ht'

/-- Settles O51: the byte clauses are the position of each wire bit, read off bit by bit and summed up. -/
theorem frameHoldsWireBitsMostSignificantFirst : Obligations.FrameHoldsWireBitsMostSignificantFirst := by
  intro w hw
  refine ⟨fun i hi => getLsbD_frameOfBits_wire hw hi, fun i hi => ?_, fun k hk => ?_⟩
  · have hbit := getLsbD_frameByte_wire hw (k := i / 8) (j := i % 8) (by omega) (by omega)
    rwa [Nat.div_add_mod] at hbit
  · have hsum := sum_testBit_msb_first (frameByte (frameOfBits w) k).toNat 8
    rw [Nat.mod_eq_of_lt (frameByte (frameOfBits w) k).isLt] at hsum
    rw [← hsum]
    congr 1
    refine List.map_congr_left fun j hj => ?_
    have hbit := getLsbD_frameByte_wire hw hk (List.mem_range.mp hj)
    rw [← hbit, ← BitVec.testBit_toNat]

end Sys2Proof.Machine
end

section
/-! The statements of `spec/30_encoding.md` about words. One fact carries them, `decodeWord_eq_ok_iff`: in its format an
operation is decoded from the word `encodeWord` writes, and from no other word (R87). -/

namespace Sys2Proof

/-! ### Slices and operands -/

@[simp] theorem toNat_field (w lo n : Nat) : (field w lo n).toNat = slice w lo n := by
  rw [field, BitVec.toNat_ofNat, slice, Nat.mod_mod]

theorem slice_zero_of_lt {w n : Nat} (h : w < 2 ^ n) : slice w 0 n = w := by
  rw [slice, Nat.pow_zero, Nat.div_one, Nat.mod_eq_of_lt h]

/-! ### Bytes and words -/

theorem decode_leBytes {f : Format} {w : Nat} (h : f.fits w = true) : decode f (leBytes f.nbytes w) = decodeWord f w := by
  have hw : w < 256 ^ f.nbytes := Nat.lt_of_lt_of_le ((fits_iff f w).1 h) (width_le_nbytes f)
  rw [decode, length_leBytes, leWord_leBytes, Nat.mod_eq_of_lt hw, if_neg (Nat.lt_irrefl _), if_neg (Nat.lt_irrefl _)]

/-- What the decoder accepts has exactly the format's bytes. -/
theorem decode_eq_ok {f : Format} {bs : List Byte} {i : Instr} (h : decode f bs = .ok i) :
    bs.length = f.nbytes ∧ decodeWord f (leWord bs) = .ok i := by
  unfold decode at h
  split at h
  · cases h
  · next hshort =>
    split at h
    · cases h
    · next hlong => exact ⟨by omega, h⟩

/-! ### The decoder, per format with operands or codes of its own -/

theorem decodeWord_fits {f : Format} {w : Nat} {i : Instr} (h : decodeWord f w = .ok i) : f.fits w = true := by
  by_contra hn
  unfold decodeWord at h
  rw [if_neg hn] at h
  cases h

section Formats

variable {w : Nat}

theorem decodeWord_frame40 (h : Format.frame40.fits w = true) :
    decodeWord .frame40 w
      = .ok (.frame (field w 32 8) (field w 24 8) (field w 16 8) (field w 8 8) (field w 0 8)) := if_pos h

theorem decodeWord_res12 (h : Format.res12.fits w = true) : decodeWord .res12 w = decodeResult w := if_pos h

theorem decodeWord_phase4 (h : Format.phase4.fits w = true) : decodeWord .phase4 w = decodePhase w := if_pos h

theorem decodeWord_decide17 (h : Format.decide17.fits w = true) : decodeWord .decide17 w = .ok (decodeDecide w) :=
  if_pos h

theorem decodeWord_scaleFunc (h : Format.scaleFunc.fits w = true) :
    decodeWord .scaleFunc w = .ok (.scale (field w 0 12)) := if_pos h

theorem decodeWord_applyFunc (h : Format.applyFunc.fits w = true) :
    decodeWord .applyFunc w = .ok (.apply (field w 0 1)) := if_pos h

end Formats

/-- The word of every operation is a word of its format and of its row. -/
theorem encodesInWidth (i : Instr) : Laws.EncodesInWidth.Statement i := by
  cases i with
  | frame h f t g c => exact Laws.EncodesInWidth.frame h f t g c
  | resValid h => exact Laws.EncodesInWidth.resValid h
  | decideIdleValid m h => exact Laws.EncodesInWidth.decideIdleValid m h
  | decideWateringValid m h => exact Laws.EncodesInWidth.decideWateringValid m h
  | decideIdleInvalid m x => exact Laws.EncodesInWidth.decideIdleInvalid m x
  | decideWateringInvalid m x => exact Laws.EncodesInWidth.decideWateringInvalid m x
  | scale r => exact Laws.EncodesInWidth.scale r
  | apply w => exact Laws.EncodesInWidth.apply w
  | _ => exact Laws.encodesInWidth_of_word (by decide) (by decide)

/-! ### An operation is decoded from its own word -/

/-- R72: each byte of a frame stands in its own eight bits. -/
theorem field_encodeWord_frame (h f t g c : Byte) :
    field (encodeWord (.frame h f t g c)) 32 8 = h ∧ field (encodeWord (.frame h f t g c)) 24 8 = f
      ∧ field (encodeWord (.frame h f t g c)) 16 8 = t ∧ field (encodeWord (.frame h f t g c)) 8 8 = g
      ∧ field (encodeWord (.frame h f t g c)) 0 8 = c := by
  have h0 := h.isLt
  have h1 := f.isLt
  have h2 := t.isLt
  have h3 := g.isLt
  have h4 := c.isLt
  refine ⟨field_eq h _ _ ?_, field_eq f _ _ ?_, field_eq t _ _ ?_, field_eq g _ _ ?_, field_eq c _ _ ?_⟩ <;>
    simp only [encodeWord, slice] <;> omega

theorem decodeWord_encodeWord_frame (h f t g c : Byte) :
    decodeWord .frame40 (encodeWord (.frame h f t g c)) = .ok (.frame h f t g c) := by
  obtain ⟨hfits, -, -⟩ := encodesInWidth (.frame h f t g c)
  obtain ⟨h0, h1, h2, h3, h4⟩ := field_encodeWord_frame h f t g c
  rw [decodeWord_frame40 hfits, h0, h1, h2, h3, h4]

/-- R76: `valid_o = 1` and `err_o = 0` stand above the humidity byte. -/
theorem decodeWord_encodeWord_resValid (h : Byte) :
    decodeWord .res12 (encodeWord (.resValid h)) = .ok (.resValid h) := by
  have hh := h.isLt
  have hhead : slice (0x800 + h.toNat) 8 4 = 8 := by simp only [slice]; omega
  have hlow : slice (0x800 + h.toNat) 0 8 = h.toNat := by simp only [slice]; omega
  obtain ⟨hfits, -, -⟩ := encodesInWidth (.resValid h)
  rw [decodeWord_res12 hfits, encodeWord, decodeResult, if_pos hhead, field_eq h _ _ hlow]

/-- R81: the slices of a DECIDE17 word with the two leading bits `k`. -/
theorem decide_slices {x k : Nat} (m : BitVec 7) (h : Byte) (hx : x = k * 2 ^ 15) (hk : k < 4) :
    slice (x + m.toNat * 2 ^ 8 + h.toNat) 15 2 = k ∧ field (x + m.toNat * 2 ^ 8 + h.toNat) 8 7 = m
      ∧ field (x + m.toNat * 2 ^ 8 + h.toNat) 0 8 = h := by
  have hm := m.isLt
  have hh := h.isLt
  refine ⟨?_, field_eq m _ _ ?_, field_eq h _ _ ?_⟩ <;> simp only [slice] <;> omega

theorem decodeDecide_encodeWord {i : Instr} (hf : i.format = .decide17) : decodeDecide (encodeWord i) = i := by
  cases i with
  | decideIdleInvalid m x =>
    obtain ⟨hk, hm, hx⟩ := decide_slices (x := 0x00000) (k := 0) m x rfl (by decide)
    rw [decodeDecide, encodeWord, hk, hm, hx]
    rfl
  | decideIdleValid m h =>
    obtain ⟨hk, hm, hh⟩ := decide_slices (x := 0x08000) (k := 1) m h rfl (by decide)
    rw [decodeDecide, encodeWord, hk, hm, hh]
    rfl
  | decideWateringInvalid m x =>
    obtain ⟨hk, hm, hx⟩ := decide_slices (x := 0x10000) (k := 2) m x rfl (by decide)
    rw [decodeDecide, encodeWord, hk, hm, hx]
    rfl
  | decideWateringValid m h =>
    obtain ⟨hk, hm, hh⟩ := decide_slices (x := 0x18000) (k := 3) m h rfl (by decide)
    rw [decodeDecide, encodeWord, hk, hm, hh]
    rfl
  | _ => cases hf

theorem decodeWord_encodeWord (i : Instr) : decodeWord i.format (encodeWord i) = .ok i := by
  obtain ⟨hfits, -, -⟩ := encodesInWidth i
  cases i with
  | frame h f t g c => exact decodeWord_encodeWord_frame h f t g c
  | resValid h => exact decodeWord_encodeWord_resValid h
  | decideIdleValid | decideWateringValid | decideIdleInvalid | decideWateringInvalid =>
    exact (decodeWord_decide17 hfits).trans (congrArg Except.ok (decodeDecide_encodeWord rfl))
  | scale r =>
    have hr : field r.toNat 0 12 = r := field_eq r _ _ (slice_zero_of_lt r.isLt)
    exact (decodeWord_scaleFunc hfits).trans (congrArg (fun x => Except.ok (Instr.scale x)) hr)
  | apply w =>
    have hw : field w.toNat 0 1 = w := field_eq w _ _ (slice_zero_of_lt w.isLt)
    exact (decodeWord_applyFunc hfits).trans (congrArg (fun x => Except.ok (Instr.apply x)) hw)
  | _ => rfl

/-! ### It is decoded from no other word -/

/-- A 12-bit word is its head and its low byte (R76). -/
theorem encodeWord_of_decodeResult {w : Nat} {i : Instr} (hw : w < 2 ^ 12) (h : decodeResult w = .ok i) :
    i.format = .res12 ∧ encodeWord i = w := by
  have hsplit : w = slice w 8 4 * 2 ^ 8 + slice w 0 8 := by simp only [slice]; omega
  unfold decodeResult at h
  split at h
  · next hhead =>
    cases h
    refine ⟨rfl, ?_⟩
    rw [encodeWord, toNat_field]
    omega
  · split at h
    · next hlow =>
      rw [hlow] at hsplit
      split at h <;> cases h <;> refine ⟨rfl, ?_⟩ <;> rw [encodeWord] <;> omega
    · cases h

theorem encodeWord_of_decodePhase {w : Nat} {i : Instr} (h : decodePhase w = .ok i) :
    i.format = .phase4 ∧ encodeWord i = w := by
  unfold decodePhase at h
  split at h <;> cases h <;> exact ⟨rfl, rfl⟩

/-- R81: the two leading bits tell the four rows apart; the operands are the rest of the word. -/
theorem encodeWord_decodeDecide {w : Nat} (hw : w < 2 ^ 17) :
    (decodeDecide w).format = .decide17 ∧ encodeWord (decodeDecide w) = w := by
  have hsplit : w = slice w 15 2 * 2 ^ 15 + slice w 8 7 * 2 ^ 8 + slice w 0 8 := by simp only [slice]; omega
  have hhead : slice w 15 2 < 4 := Nat.mod_lt _ (by decide)
  unfold decodeDecide
  split
  case h_4 h0 h1 h2 =>
    have hk : slice w 15 2 = 3 := by grind
    refine ⟨rfl, ?_⟩
    rw [encodeWord, toNat_field, toNat_field]
    omega
  all_goals
    refine ⟨rfl, ?_⟩
    rw [encodeWord, toNat_field, toNat_field]
    omega

theorem encodeWord_of_decodeWord {f : Format} {w : Nat} {i : Instr} (h : decodeWord f w = .ok i) :
    i.format = f ∧ encodeWord i = w := by
  have hfits := decodeWord_fits h
  have hw : w < 2 ^ f.width := (fits_iff f w).1 hfits
  cases f with
  | cmd | symbol =>
    obtain rfl | rfl : w = 0 ∨ w = 1 := by simp only [Format.width] at hw; omega
    all_goals cases h; exact ⟨rfl, rfl⟩
  | frame40 =>
    rw [decodeWord_frame40 hfits] at h
    cases h
    refine ⟨rfl, ?_⟩
    simp only [Format.width] at hw
    simp only [encodeWord, toNat_field, slice]
    omega
  | res12 => exact encodeWord_of_decodeResult hw (decodeWord_res12 hfits ▸ h)
  | phase4 => exact encodeWord_of_decodePhase (decodeWord_phase4 hfits ▸ h)
  | decide17 =>
    rw [decodeWord_decide17 hfits] at h
    cases h
    exact encodeWord_decodeDecide hw
  | scaleFunc =>
    rw [decodeWord_scaleFunc hfits] at h
    cases h
    exact ⟨rfl, (toNat_field w 0 _).trans (slice_zero_of_lt hw)⟩
  | applyFunc =>
    rw [decodeWord_applyFunc hfits] at h
    cases h
    exact ⟨rfl, (toNat_field w 0 _).trans (slice_zero_of_lt hw)⟩

/-- R87: within a format, decoding and encoding are inverse to each other. -/
theorem decodeWord_eq_ok_iff {f : Format} {w : Nat} {i : Instr} :
    decodeWord f w = .ok i ↔ i.format = f ∧ encodeWord i = w := by
  refine ⟨encodeWord_of_decodeWord, ?_⟩
  rintro ⟨rfl, rfl⟩
  exact decodeWord_encodeWord i

/-! ### The rows of a format -/

/-- The keys `match` and `mask` of the rows of a format, in the table's order. -/
def Format.rows : Format → List (Nat × Nat)
  | .cmd => [(0x1, 0x1), (0x0, 0x1)]
  | .symbol => [(0x0, 0x1), (0x1, 0x1)]
  | .frame40 => [(0x0, 0x0)]
  | .res12 => [(0x000, 0xFFF), (0x800, 0xF00), (0x100, 0xFFF), (0x200, 0xFFF), (0x300, 0xFFF), (0x400, 0xFFF),
      (0x500, 0xFFF), (0x600, 0xFFF)]
  | .phase4 => [(0x0, 0xF), (0x1, 0xF), (0x2, 0xF), (0x3, 0xF), (0x4, 0xF), (0x5, 0xF), (0x6, 0xF), (0x7, 0xF),
      (0x8, 0xF), (0x9, 0xF), (0xA, 0xF)]
  | .decide17 => [(0x08000, 0x18000), (0x18000, 0x18000), (0x00000, 0x18000), (0x10000, 0x18000)]
  | .scaleFunc => [(0x000, 0x000)]
  | .applyFunc => [(0x0, 0x0)]

theorem rowMatch_mem_rows (i : Instr) : i.rowMatch ∈ i.format.rows := by
  cases i <;> simp [Instr.rowMatch, Instr.format, Format.rows]

/-- Two rows of a format differ in a bit that both masks look at, or are the same row. -/
theorem Format.rows_clash (f : Format) : ∀ r ∈ f.rows, ∀ q ∈ f.rows, r.1 &&& q.2 = q.1 &&& r.2 → r = q := by
  cases f <;> decide

theorem rowMatch_eq_of_common_word {i j : Instr} {w : Nat} (hf : j.format = i.format)
    (hi : w &&& i.rowMatch.2 = i.rowMatch.1) (hj : w &&& j.rowMatch.2 = j.rowMatch.1) : j.rowMatch = i.rowMatch := by
  refine i.format.rows_clash _ (hf ▸ rowMatch_mem_rows j) _ (rowMatch_mem_rows i) ?_
  rw [← hi, ← hj, Nat.and_right_comm]

/-! ### The words of RES12 and PHASE4 -/

/-- The result words are the three forms of R76. -/
theorem encodeWord_result_forms {i : Instr} (hf : i.format = .res12) :
    encodeWord i = 0 ∨ (0x800 ≤ encodeWord i ∧ encodeWord i < 0x900)
      ∨ ∃ e, 1 ≤ e ∧ e ≤ 6 ∧ encodeWord i = e * 0x100 := by
  cases i with
  | resNone => exact .inl rfl
  | resValid h => exact .inr (.inl ⟨Nat.le_add_right _ _, Nat.add_lt_add_left h.isLt _⟩)
  | resNoResponse => exact .inr (.inr ⟨1, by decide⟩)
  | resPresenceLowTimeout => exact .inr (.inr ⟨2, by decide⟩)
  | resPresenceHighTimeout => exact .inr (.inr ⟨3, by decide⟩)
  | resBitStartTimeout => exact .inr (.inr ⟨4, by decide⟩)
  | resBitEndTimeout => exact .inr (.inr ⟨5, by decide⟩)
  | resChecksumMismatch => exact .inr (.inr ⟨6, by decide⟩)
  | _ => cases hf

/-- The error codes of R77. -/
theorem exists_error_row {e : Nat} (h1 : 1 ≤ e) (h6 : e ≤ 6) :
    ∃ i : Instr, i.format = .res12 ∧ encodeWord i = e * 0x100 :=
  match e, h1, h6 with
  | 1, _, _ => ⟨.resNoResponse, rfl, rfl⟩
  | 2, _, _ => ⟨.resPresenceLowTimeout, rfl, rfl⟩
  | 3, _, _ => ⟨.resPresenceHighTimeout, rfl, rfl⟩
  | 4, _, _ => ⟨.resBitStartTimeout, rfl, rfl⟩
  | 5, _, _ => ⟨.resBitEndTimeout, rfl, rfl⟩
  | 6, _, _ => ⟨.resChecksumMismatch, rfl, rfl⟩

/-- The phase codes of R78. -/
theorem encodeWord_phase_le {i : Instr} (hf : i.format = .phase4) : encodeWord i ≤ 10 := by
  cases i with
  | idle | startLow | startSettle | presResp | presLow | presHigh | bitWait | bitDelay | bitEnd | done | failed => decide
  | _ => cases hf

theorem exists_phase_row {w : Nat} (h : w ≤ 10) : ∃ i : Instr, i.format = .phase4 ∧ encodeWord i = w :=
  match w, h with
  | 0, _ => ⟨.idle, rfl, rfl⟩
  | 1, _ => ⟨.startLow, rfl, rfl⟩
  | 2, _ => ⟨.startSettle, rfl, rfl⟩
  | 3, _ => ⟨.presResp, rfl, rfl⟩
  | 4, _ => ⟨.presLow, rfl, rfl⟩
  | 5, _ => ⟨.presHigh, rfl, rfl⟩
  | 6, _ => ⟨.bitWait, rfl, rfl⟩
  | 7, _ => ⟨.bitDelay, rfl, rfl⟩
  | 8, _ => ⟨.bitEnd, rfl, rfl⟩
  | 9, _ => ⟨.done, rfl, rfl⟩
  | 10, _ => ⟨.failed, rfl, rfl⟩

/-! ### The obligations -/

/-- Settles O1: the bytes of an operation are those of its word, which decodes to it. -/
theorem decodeEncodeRoundTrip : Obligations.DecodeEncodeRoundTrip := by
  intro i
  obtain ⟨hfits, -, -⟩ := encodesInWidth i
  exact (decode_leBytes hfits).trans (decodeWord_encodeWord i)

/-- Settles O2: bytes of the right number are the bytes of the word they spell. -/
theorem encodeDecodeRoundTrip : Obligations.EncodeDecodeRoundTrip := by
  intro f bs i h
  obtain ⟨hlen, hword⟩ := decode_eq_ok h
  obtain ⟨rfl, hw⟩ := encodeWord_of_decodeWord hword
  refine ⟨rfl, ?_⟩
  rw [encode, hw, ← hlen, leBytes_leWord]

/-- Settles O3: the word is the one the operation encodes to, which is a word of its row. -/
theorem wordBelongsToExactlyItsRow : Obligations.WordBelongsToExactlyItsRow := by
  intro f w i h
  obtain ⟨rfl, rfl⟩ := encodeWord_of_decodeWord h
  obtain ⟨hfits, hrow, -⟩ := encodesInWidth i
  exact ⟨hfits, rfl, hrow, fun j hf hj => rowMatch_eq_of_common_word hf hrow hj⟩

/-- Settles O4: the words that decode are those the operations of the format encode to. -/
theorem reservedWordsAreRejected : Obligations.ReservedWordsAreRejected := by
  refine ⟨fun w => ?_, fun w => ?_⟩ <;> simp only [decodeWord_eq_ok_iff]
  · constructor
    · rintro ⟨i, hf, rfl⟩
      exact encodeWord_result_forms hf
    · rintro (rfl | ⟨hlo, hhi⟩ | ⟨e, h1, h6, rfl⟩)
      · exact ⟨.resNone, rfl, rfl⟩
      · refine ⟨.resValid (BitVec.ofNat 8 (w - 0x800)), rfl, ?_⟩
        rw [encodeWord, BitVec.toNat_ofNat]
        omega
      · obtain ⟨i, hi⟩ := exists_error_row h1 h6
        exact ⟨i, hi⟩
  · constructor
    · rintro ⟨i, hf, rfl⟩
      exact encodeWord_phase_le hf
    · intro hw
      exact exists_phase_row hw

/-- Settles O5: each word is what the encoder writes for its operation. -/
theorem sampleWordsDecode : Obligations.SampleWordsDecode :=
  ⟨decodeEncodeRoundTrip .read, decodeEncodeRoundTrip .bit1, decodeEncodeRoundTrip (.frame 60 0 20 0 80),
    decodeEncodeRoundTrip (.resValid 60), decodeEncodeRoundTrip .bitDelay,
    decodeEncodeRoundTrip (.decideIdleValid 30 70),
    decodeEncodeRoundTrip (.scale 1228), decodeEncodeRoundTrip (.apply 1)⟩

end Sys2Proof
end

section
/-! The statements of `spec/30_encoding.md` about the machine: the forms of the result word (R76), what a row run alone does, and
that a presented word is what the next step runs (R87, R185; log entry 6). -/

namespace Sys2Proof.Machine

/-! ### The bytes of a frame that is written as five bytes -/

/-- R65, as a slice of the number of the frame. -/
theorem frameByte_eq_field (f : FrameWord) (k : Nat) : frameByte f k = field f.toNat (32 - 8 * k) 8 := by
  apply BitVec.eq_of_toNat_eq
  rw [toNat_field, slice, frameByte, BitVec.extractLsb'_toNat, Nat.shiftRight_eq_div_pow]

theorem toNat_append_byte {n : Nat} (x : BitVec n) (b : Byte) : (x ++ b).toNat = x.toNat * 2 ^ 8 + b.toNat := by
  rw [BitVec.toNat_append, ← Nat.shiftLeft_add_eq_or_of_lt b.isLt, Nat.shiftLeft_eq]

/-- The frame of five bytes is the word of the row FRAME (R72). -/
theorem toNat_frameOf (h f t g c : Byte) : (frameOf h f t g c).toNat = encodeWord (.frame h f t g c) := by
  rw [frameOf, toNat_append_byte, toNat_append_byte, toNat_append_byte, toNat_append_byte, encodeWord]
  omega

theorem frameByte_frameOf (h f t g c : Byte) :
    frameByte (frameOf h f t g c) 0 = h ∧ frameByte (frameOf h f t g c) 1 = f ∧ frameByte (frameOf h f t g c) 2 = t
      ∧ frameByte (frameOf h f t g c) 3 = g ∧ frameByte (frameOf h f t g c) 4 = c := by
  simp only [frameByte_eq_field, toNat_frameOf]
  exact field_encodeWord_frame h f t g c

theorem checksumOk_frameOf_iff (h f t g c : Byte) :
    checksumOk (frameOf h f t g c) = true ↔ (h.toNat + f.toNat + t.toNat + g.toNat) % 256 = c.toNat := by
  obtain ⟨h0, h1, h2, h3, h4⟩ := frameByte_frameOf h f t g c
  rw [checksumOk, h0, h1, h2, h3, h4, decide_eq_true_iff]

theorem checksumOk_goodFrame (h : Byte) : checksumOk (goodFrame h) = true :=
  (checksumOk_frameOf_iff h 0 0 0 h).2 (Nat.mod_eq_of_lt h.isLt)

theorem validate_of_ok {s : State} (h : checksumOk s.frame = true) : validate s = complete (frameByte s.frame 0) s :=
  if_pos h

theorem validate_of_not_ok {s : State} (h : ¬ checksumOk s.frame = true) : validate s = raise .checksumMismatch s :=
  if_neg h

/-! ### The shift of the frame -/

/-- R56, as a shift of the whole register. -/
theorem shiftIn_false (f : FrameWord) : shiftIn f false = f <<< 1 := by
  apply BitVec.eq_of_toNat_eq
  rw [toNat_shiftIn]
  simp [Nat.shiftLeft_eq, Nat.mul_comm]

theorem shiftIn_true (f : FrameWord) : shiftIn f true = f <<< 1 ||| 1 := by
  rw [← shiftIn_false]
  ext j hj
  simp only [BitVec.getElem_or]
  simp only [← BitVec.getLsbD_eq_getElem, getLsbD_shiftIn _ _ hj]
  cases j <;> simp

/-! ### The result word and the phases -/

theorem Phase.busy_iff (p : Phase) : p.busy = true ↔ p ≠ .idle ∧ p ≠ .done ∧ p ≠ .failed := by cases p <;> decide

theorem toNat_errCode_some (e : OneWireError) : 1 ≤ (errCode (some e)).toNat ∧ (errCode (some e)).toNat ≤ 6 := by
  cases e <;> decide

/-- R76: the three parts of the result word, as a number. -/
theorem toNat_resultWord (s : State) :
    s.resultWord.toNat = 0x800 * s.validO.toNat + 0x100 * s.errO.toNat + s.hum.toNat := by
  have hv : (BitVec.ofBool s.validO).toNat = s.validO.toNat := by cases s.validO <;> rfl
  rw [State.resultWord, State.humO, toNat_append_byte, BitVec.toNat_append,
    ← Nat.shiftLeft_add_eq_or_of_lt s.errO.isLt, Nat.shiftLeft_eq, hv]
  omega

theorem State.validO_of_ne_done {s : State} (h : s.phase ≠ .done) : s.validO = false := decide_eq_false h

/-- Outside `DONE` no reading is shown, and `hum` is 0: the word is the error code alone (R33 (c)). -/
theorem State.Inv.toNat_resultWord_of_ne_done {s : State} (hi : s.Inv) (h : s.phase ≠ .done) :
    s.resultWord.toNat = 0x100 * s.errO.toNat := by
  rw [toNat_resultWord, State.validO_of_ne_done h, hi.hum_zero h]
  simp

theorem State.Inv.err_of_ne_failed {s : State} (hi : s.Inv) (h : s.phase ≠ .failed) : s.err = none := by
  simpa [h] using hi.err_iff

theorem State.errO_of_err_none {s : State} (h : s.err = none) : s.errO = 0 := congrArg errCode h

theorem State.Inv.resultWord_eq_zero {s : State} (hi : s.Inv) (hd : s.phase ≠ .done) (hf : s.phase ≠ .failed) :
    s.resultWord = 0 := by
  apply BitVec.eq_of_toNat_eq
  rw [hi.toNat_resultWord_of_ne_done hd, State.errO_of_err_none (hi.err_of_ne_failed hf)]
  rfl

theorem State.Inv.toNat_resultWord_of_done {s : State} (hi : s.Inv) (hp : s.phase = .done) :
    s.resultWord.toNat = 0x800 + s.hum.toNat := by
  have hv : s.validO = true := decide_eq_true hp
  have he : s.err = none := hi.err_of_ne_failed (by rw [hp]; decide)
  rw [toNat_resultWord, hv, State.errO_of_err_none he]
  rfl

/-- In `FAILED` there is an error, and it is what the reading shows (R32, R33 (b)). -/
theorem State.Inv.exists_err_of_failed {s : State} (hi : s.Inv) (hp : s.phase = .failed) :
    ∃ e, s.err = some e ∧ s.reading = some (.invalid e) := by
  obtain ⟨e, he⟩ := Option.isSome_iff_exists.1 (hi.err_iff.2 hp)
  exact ⟨e, he, by rw [State.reading, hp, he]; rfl⟩

theorem State.reading_of_not_ended {s : State} (hd : s.phase ≠ .done) (hf : s.phase ≠ .failed) : s.reading = none := by
  unfold State.reading
  split <;> simp_all

theorem State.doneO_eq_false {s : State} (hd : s.phase ≠ .done) (hf : s.phase ≠ .failed) : s.doneO = false :=
  decide_eq_false (not_or.2 ⟨hd, hf⟩)

/-- R29: a state is busy, or shows a result, or is idle. -/
theorem State.busy_done_idle (s : State) :
    (s.busyO = true ∧ s.doneO = false ∧ s.phase ≠ .idle) ∨ (s.busyO = false ∧ s.doneO = true ∧ s.phase ≠ .idle)
      ∨ (s.busyO = false ∧ s.doneO = false ∧ s.phase = .idle) := by
  unfold State.busyO State.doneO
  cases s.phase <;> decide

/-! ### Tick edges that are decided by the inputs presented -/

section Edges

variable {s : State}

/-- R116: the last allowed sample fails. -/
theorem wait_timeout {level : Bool} {n : Nat} (next : State → State) (e : OneWireError) (hl : lineSample s = !level)
    (hc : s.cnt = n - 1) : wait level n next e s = raise e s := by
  have hne : lineSample s ≠ level := by rw [hl]; exact Bool.not_ne_self level
  rw [wait, if_neg hne, if_pos hc]

theorem tickRule_timeout {level : Bool} {e : OneWireError} (haw : s.phase.awaits = some (level, e))
    (hl : lineSample s = !level) (hc : s.cnt = phaseBound s.cfg s.phase - 1) (b : Bool) : tickRule b s = raise e s := by
  unfold tickRule
  cases hp : s.phase with
  | presResp | presLow | presHigh | bitWait | bitEnd =>
    rw [hp] at haw hc
    cases haw
    exact wait_timeout _ _ hl hc
  | _ => rw [hp] at haw; cases haw

/-- R121: the last edge of the delay takes the sample. -/
theorem tickRule_sample (hp : s.phase = .bitDelay) (hc : s.cnt = s.cfg.nSample - 1) (b : Bool) :
    tickRule b s = takeSample (lineSample s) s := by
  unfold tickRule
  rw [hp]
  exact if_pos hc

/-- R122, R123: a low sample after bit 39 judges the frame. -/
theorem tickRule_validate (hp : s.phase = .bitEnd) (hl : lineSample s = false) (hlast : s.bitidx.val = 39) (b : Bool) :
    tickRule b s = validate s := by
  have hnext : nextBit s = validate s := dif_neg (by omega)
  unfold tickRule
  rw [hp]
  exact (if_pos hl).trans hnext

end Edges

/-! ### Presented words -/

section Present

variable (s : State) (b : Bool)

theorem present_cfg (i : Instr) : (s.present i).cfg = s.cfg := by cases i <;> rfl

theorem present_atTick {i : Instr} (hi : i.format ≠ .applyFunc) : (s.present i).atTick := by
  cases i with
  | apply w => exact absurd rfl hi
  | _ => exact ⟨rfl, rfl⟩

theorem tickRule_presentFrame (f : FrameWord) : tickRule b (presentFrame f s) = validate (presentFrame f s) :=
  tickRule_validate rfl rfl rfl b

/-- A frame with a right checksum delivers its humidity. -/
theorem tickRule_presentFrame_good (h : Byte) :
    tickRule b (presentFrame (goodFrame h) s) = complete h (presentFrame (goodFrame h) s) := by
  have hbyte : frameByte (presentFrame (goodFrame h) s).frame 0 = h := (frameByte_frameOf h 0 0 0 h).1
  rw [tickRule_presentFrame, validate_of_ok (s := presentFrame (goodFrame h) s) (checksumOk_goodFrame h), hbyte]

theorem tickRule_presentFrame_bad :
    tickRule b (presentFrame badFrame s) = raise .checksumMismatch (presentFrame badFrame s) := by
  have hbad : ¬ checksumOk badFrame = true := by decide
  rw [tickRule_presentFrame, validate_of_not_ok (s := presentFrame badFrame s) hbad]

/-- The failing sample presented for a polling phase makes it raise its error. -/
theorem tickRule_presentTimeout {p : Phase} {level : Bool} {e : OneWireError} (haw : p.awaits = some (level, e)) :
    tickRule b (presentTimeout p (phaseBound s.cfg p) (!level) s)
      = raise e (presentTimeout p (phaseBound s.cfg p) (!level) s) :=
  tickRule_timeout (s := presentTimeout p (phaseBound s.cfg p) (!level) s) haw rfl rfl b

theorem tickRule_presentSample (dq : Bool) :
    tickRule b (presentTimeout .bitDelay s.cfg.nSample dq s)
      = takeSample dq (presentTimeout .bitDelay s.cfg.nSample dq s) :=
  tickRule_sample (s := presentTimeout .bitDelay s.cfg.nSample dq s) rfl rfl b

/-- A presented phase code stands in register `phase` (R36). -/
theorem present_phase_instr {i : Instr} (hi : i.format = .phase4) : (s.present i).phase.instr = i := by
  cases i with
  | idle | startLow | startSettle | presResp | presLow | presHigh | bitWait | bitDelay | bitEnd | done | failed => rfl
  | _ => cases hi

theorem exec_present_phase {i : Instr} (hi : i.format = .phase4) :
    exec i (s.present i) = underLegal (s.present i) (tickRule (startPort (s.present i)) (s.present i)) := by
  have h := exec_phase_instr (s.present i)
  rwa [present_phase_instr s hi] at h

/-- The rows that are whole tick edges: presented, each is the tick edge of the state it is presented in. -/
theorem exec_present {i : Instr} (hd : i.format ≠ .decide17) (hs : i.format ≠ .scaleFunc)
    (ha : i.format ≠ .applyFunc) :
    exec i (s.present i) = underLegal (s.present i) (tickRule (startPort (s.present i)) (s.present i)) := by
  cases i with
  | read | nop | resNone => rfl
  | bit0 => exact congrArg (underLegal _) (tickRule_presentSample s _ false).symm
  | bit1 => exact congrArg (underLegal _) (tickRule_presentSample s _ true).symm
  | frame h f t g c => exact congrArg (underLegal _) (tickRule_presentFrame s _ (frameOf h f t g c)).symm
  | resValid h => exact congrArg (underLegal _) (tickRule_presentFrame_good s _ h).symm
  | resNoResponse => exact congrArg (underLegal _) (tickRule_presentTimeout s _ (p := .presResp) rfl).symm
  | resPresenceLowTimeout => exact congrArg (underLegal _) (tickRule_presentTimeout s _ (p := .presLow) rfl).symm
  | resPresenceHighTimeout => exact congrArg (underLegal _) (tickRule_presentTimeout s _ (p := .presHigh) rfl).symm
  | resBitStartTimeout => exact congrArg (underLegal _) (tickRule_presentTimeout s _ (p := .bitWait) rfl).symm
  | resBitEndTimeout => exact congrArg (underLegal _) (tickRule_presentTimeout s _ (p := .bitEnd) rfl).symm
  | resChecksumMismatch => exact congrArg (underLegal _) (tickRule_presentFrame_bad s _).symm
  | idle | startLow | startSettle | presResp | presLow | presHigh | bitWait | bitDelay | bitEnd | done | failed =>
    exact exec_present_phase s rfl
  | decideIdleValid | decideWateringValid | decideIdleInvalid | decideWateringInvalid => exact absurd rfl hd
  | scale => exact absurd rfl hs
  | apply => exact absurd rfl ha

/-- APPLY is presented at an edge without a tick, whose end drives the port (R180). -/
theorem step_present_apply (hl : s.cfg.legal = true) (w : BitVec 1) :
    step (s.present (.apply w)) = closeEdge (exec (.apply w) (s.present (.apply w))) := by
  have hexec : exec (.apply w) (s.present (.apply w)) = .next (driveAct (w.getLsbD 0) (s.present (.apply w))) :=
    underLegal_of_legal (s := s.present (.apply w)) hl _
  rw [step_hold (s := s.present (.apply w)) hl rfl rfl, hexec]
  rfl

theorem step_present {i : Instr} (hl : s.cfg.legal = true) (hd : i.format ≠ .decide17) (hs : i.format ≠ .scaleFunc) :
    step (s.present i) = closeEdge (exec i (s.present i)) := by
  by_cases ha : i.format = .applyFunc
  · cases i with
    | apply w => exact step_present_apply s hl w
    | _ => cases ha
  · rw [step_tick_eq_closeEdge (present_atTick s ha), exec_phase_instr, exec_present s hd hs ha]

/-- R187: the edge that ends a read stores the decision on the operands presented. -/
theorem watering_present_decide {i : Instr} (hi : i.format = .decide17) :
    ∃ u, exec i (s.present i) = underLegal (s.present i) u
      ∧ (tickRule (startPort (s.present i)) (s.present i)).watering = u.watering := by
  cases i with
  | decideIdleValid m h =>
    have hend := tickRule_presentFrame_good { s with watering := false, moist := m } false h
    exact ⟨_, rfl, (congrArg (fun t : State => t.watering) hend).trans rfl⟩
  | decideWateringValid m h =>
    have hend := tickRule_presentFrame_good { s with watering := true, moist := m } false h
    exact ⟨_, rfl, (congrArg (fun t : State => t.watering) hend).trans rfl⟩
  | decideIdleInvalid m x =>
    have hend := tickRule_presentTimeout { s with watering := false, moist := m } false (p := .presResp) rfl
    exact ⟨_, rfl, (congrArg (fun t : State => t.watering) hend).trans rfl⟩
  | decideWateringInvalid m x =>
    have hend := tickRule_presentTimeout { s with watering := true, moist := m } false (p := .presResp) rfl
    exact ⟨_, rfl, (congrArg (fun t : State => t.watering) hend).trans rfl⟩
  | _ => cases hi

/-- A 12-bit operand passes the port unchanged, since the port has at least 12 bits (R30, R9). -/
theorem rawPort_present_scale (hl : s.cfg.legal = true) (r : BitVec 12) :
    rawPort (s.present (.scale r)) = r.toNat := by
  have hw : 12 ≤ s.cfg.rawW := (Cfg.legal_ranges hl).1
  exact Nat.mod_eq_of_lt (Nat.lt_of_lt_of_le r.isLt (Nat.pow_le_pow_right (by decide) hw))

/-- R186: the accepting edge latches the operand presented. -/
theorem moist_present_scale (hl : s.cfg.legal = true) (r : BitVec 12) :
    (tickRule (startPort (s.present (.scale r))) (s.present (.scale r))).moist
      = (latchMoist r.toNat (s.present (.scale r))).moist := by
  have hacc : tickRule (startPort (s.present (.scale r))) (s.present (.scale r))
      = accept (rawPort (s.present (.scale r))) (s.present (.scale r)) := rfl
  rw [hacc, rawPort_present_scale s hl r]
  rfl

end Present

/-! ### The obligations -/

/-- Settles O40: the ports are their functions, and with the invariant the result word is the head of its phase and what
stands in `err` or `hum`. -/
theorem resultWordHasOneOfItsForms : Obligations.ResultWordHasOneOfItsForms := by
  intro s
  refine ⟨⟨decide_eq_true_iff, Phase.busy_iff s.phase, decide_eq_true_iff, decide_eq_true_iff, rfl, rfl, rfl, rfl⟩,
    ?_, ?_, s.busy_done_idle, fun hi => ⟨fun h => ?_, fun hp => ?_, fun hp => ?_⟩⟩
  · unfold State.phaseO
    cases s.phase <;> decide
  · unfold State.errO
    cases s.err with
    | none => decide
    | some e => cases e <;> decide
  · have hne : s.phase ≠ .done ∧ s.phase ≠ .failed := by
      obtain hp | hb := h
      · simp [hp]
      · exact ((Phase.busy_iff s.phase).1 hb).2
    obtain ⟨hd, hf⟩ := hne
    exact ⟨State.doneO_eq_false hd hf, hi.resultWord_eq_zero hd hf, State.reading_of_not_ended hd hf⟩
  · exact ⟨by rw [State.busyO, hp]; rfl, decide_eq_true (.inl hp), hi.toNat_resultWord_of_done hp,
      by rw [State.reading, hp]⟩
  · obtain ⟨e, he, hread⟩ := hi.exists_err_of_failed hp
    obtain ⟨h1, h6⟩ := toNat_errCode_some e
    rw [← he] at h1 h6
    exact ⟨by rw [State.busyO, hp]; rfl, decide_eq_true (.inr hp), h1, h6,
      hi.toNat_resultWord_of_ne_done (by rw [hp]; decide), e, he, hread⟩

/-- Settles O13: a rest phase without `start` holds. -/
theorem nopHoldsInRestPhase : Obligations.NopHoldsInRestPhase := by
  intro s hl hr
  calc exec .nop s = underLegal s (tickRule false s) := rfl
    _ = .next (tickRule false s) := underLegal_of_legal hl _
    _ = .next s := by rw [tickRule_rest hr, if_neg Bool.false_ne_true]

/-- Settles O16: shifting in is shifting left with the sample at bit 0. -/
theorem dataSampleShiftsIntoFrame : Obligations.DataSampleShiftsIntoFrame := by
  intro s hl
  rw [← shiftIn_true, ← shiftIn_false]
  exact ⟨underLegal_of_legal hl _, underLegal_of_legal hl _⟩

/-- Settles O17: byte 0 of the frame put in place is `h`, and its checksum is right when the sum of the others is `c`. -/
theorem frameIsJudgedByItsChecksum : Obligations.FrameIsJudgedByItsChecksum := by
  intro s h f t g c hl
  have hexec : exec (.frame h f t g c) s = .next (validate (loadFrame (frameOf h f t g c) s)) :=
    underLegal_of_legal hl _
  have hok : checksumOk (loadFrame (frameOf h f t g c) s).frame = true
      ↔ (h.toNat + f.toNat + t.toNat + g.toNat) % 256 = c.toNat := checksumOk_frameOf_iff h f t g c
  refine ⟨fun hsum => ?_, fun hsum => ?_⟩
  · have hbyte : frameByte (frameOf h f t g c) 0 = h := (frameByte_frameOf h f t g c).1
    rw [hexec, validate_of_ok (hok.2 hsum), complete_eq, loadFrame_frame, hbyte]
    rfl
  · rw [hexec, validate_of_not_ok (mt hok.1 hsum), raise_eq]
    rfl

/-- Settles O18: the row answers the state it is given, through the guard of R11. -/
theorem resultNoneWritesNothing : Obligations.ResultNoneWritesNothing := fun s hl => underLegal_of_legal hl s

/-- Settles O11: a row that is a whole edge is the edge presented; of the others the step gives the register they feed. -/
theorem presentedWordIsRunByTheStep : Obligations.PresentedWordIsRunByTheStep := by
  refine ⟨fun s nbits w i h => ?_, fun s i hl => ⟨step_present s hl, fun hd => ?_, fun hs => ?_⟩⟩
  · rw [State.withFetchWord, presentTableWord, h]
  · have hl' : (s.present i).cfg.legal = true := by rw [present_cfg]; exact hl
    have htick : (s.present i).atTick := present_atTick s (by rw [hd]; decide)
    obtain ⟨u, hexec, hw⟩ := watering_present_decide s hd
    exact ⟨_, u, step_tick hl' htick, hexec.trans (underLegal_of_legal hl' u), hw⟩
  · cases i with
    | scale r =>
      exact ⟨_, _, step_tick (s := s.present (.scale r)) hl ⟨rfl, rfl⟩,
        underLegal_of_legal (s := s.present (.scale r)) hl _, moist_present_scale s hl r⟩
    | _ => cases hs

end Sys2Proof.Machine
end

section
/-! The statements of `spec/40_moisture_scaler.md`. Two ideas carry them. `le_scaleRaw_iff` says where each percentage begins,
and monotonicity and the clamp follow from it. And register `moist` is written at two kinds of edge only, by reset and by
accepting a read, so a bound on `scale` is a bound on the register. -/

namespace Sys2Proof.Machine

/-! ### The number `scale(r)` -/

/-- R105: the raw values that reach a percentage. -/
theorem le_scaleRaw_iff (r p : Nat) : p ≤ scaleRaw r ↔ p ≤ 100 ∧ 8190 * p ≤ 200 * r + 4095 := by
  rw [scaleRaw, Nat.le_min, Nat.le_div_iff_mul_le (by decide), Nat.mul_comm p]

theorem scaleRaw_mono {r r' : Nat} (h : r ≤ r') : scaleRaw r ≤ scaleRaw r' := by
  obtain ⟨hle, hbegin⟩ := (le_scaleRaw_iff r (scaleRaw r)).1 le_rfl
  exact (le_scaleRaw_iff r' (scaleRaw r)).2 ⟨hle, by omega⟩

/-- R100: the formula with both numbers halved. -/
theorem scaleRaw_eq_halved (r : Nat) : scaleRaw r = min 100 ((100 * r + 2047) / 4095) := by
  have hhalf : (200 * r + 4095) / 2 = 100 * r + 2047 := by omega
  rw [scaleRaw, ← hhalf, Nat.div_div_eq_div_mul]

/-- R101: the clamp acts when the unclamped value reaches 101, which first happens at 4116. -/
theorem scaleRaw_eq_unclamped_iff (r : Nat) : scaleRaw r = (200 * r + 4095) / 8190 ↔ r < 4116 := by
  rw [scaleRaw, min_eq_right_iff, Nat.div_le_iff_le_mul_add_pred (by decide)]
  omega

/-- R105: an even number is not an odd one. -/
theorem no_tie (r k : Nat) : 200 * r ≠ 4095 * (2 * k + 1) := by omega

/-- R105: a nearest integer to `100 r / 4095` is the unclamped value, the bound above being strict because there is no tie. -/
theorem unclamped_eq_of_nearest {r q : Nat} (hle : 200 * r ≤ 8190 * q + 4095) (hge : 8190 * q ≤ 200 * r + 4095) :
    (200 * r + 4095) / 8190 = q := by
  have htie := no_tie r q
  exact Nat.div_eq_of_lt_le (by omega) (by omega)

/-! ### The register `moist` -/

theorem rawPort_lt (s : State) : rawPort s < 2 ^ s.cfg.rawW := Nat.mod_lt _ (Nat.two_pow_pos _)

/-- R186: of the results of a tick edge only an accepted read has another `moist`. -/
theorem TickCase.accept_or_moist_eq {b : Bool} {s t : State} (h : TickCase b s t) :
    (s.phase.busy = false ∧ b = true ∧ t.moist = BitVec.ofNat 7 (scaleRaw (rawPort s))) ∨ t.moist = s.moist := by
  cases h with
  | accept hr hb => exact .inl ⟨hr, hb, rfl⟩
  | rest | count | move | sample | bit | good | bad | timeout => exact .inr rfl

/-- R27: whatever an edge does, `moist` is cleared, a result of `scale`, or as before. -/
theorem step_moist_cases {s s' : State} (h : step s = .next s') :
    s'.moist = 0 ∨ s'.moist = BitVec.ofNat 7 (scaleRaw (rawPort s)) ∨ s'.moist = s.moist := by
  obtain ⟨-, ⟨-, rfl⟩ | ⟨-, -, rfl⟩ | ⟨-, rfl⟩⟩ := step_cases h
  · exact .inl rfl
  · exact .inr (.inr rfl)
  · obtain ⟨-, -, haccept⟩ | hsame := (tickRule_cases (startPort s) s).accept_or_moist_eq
    · exact .inr (.inl haccept)
    · exact .inr (.inr hsame)

theorem step_moist_le {s s' : State} (hm : s.moist.toNat ≤ 100) (h : step s = .next s') : s'.moist.toNat ≤ 100 := by
  obtain hzero | hscale | hsame := step_moist_cases h
  · simp [hzero]
  · rw [hscale, toNat_ofNat_scaleRaw]
    exact scaleRaw_le _
  · rwa [hsame]

/-! ### The obligations -/

/-- Settles O35: the clamp is a comparison of `r` with 4116, which a 12-bit port stays below, and every value written to
`moist` is within the bound. -/
theorem scaleClampActsFrom4116 : Obligations.ScaleClampActsFrom4116 := by
  refine ⟨scaleRaw_eq_unclamped_iff, fun s hw => ?_, fun r hlo hhi => ?_, by decide, scaleRaw_le, by decide,
    fun s s' => step_moist_le⟩
  · have hport : rawPort s < 2 ^ 12 := hw ▸ rawPort_lt s
    exact (scaleRaw_eq_unclamped_iff _).2 (by omega)
  · exact Nat.div_eq_of_lt_le (by omega) (by omega)

/-- Settles O32: the row latches `scale` of its operand, which the 7-bit register holds whole. -/
theorem scaleLatchesThePercentage : Obligations.ScaleLatchesThePercentage := by
  intro s r hl
  have hmoist : (latchMoist r.toNat s).moist.toNat = scaleRaw r.toNat := toNat_ofNat_scaleRaw _
  exact ⟨latchMoist r.toNat s, underLegal_of_legal hl _, rfl, hmoist, hmoist.trans (scaleRaw_eq_halved _)⟩

/-- Settles O33: a percentage that `r` reaches is reached by every larger raw value. -/
theorem scaleIsMonotoneWithinHundred : Obligations.ScaleIsMonotoneWithinHundred :=
  ⟨fun _ _ => scaleRaw_mono, scaleRaw_le, by decide, by decide⟩

/-- Settles O34: without ties the nearest integer is unique, and it is the unclamped value. -/
theorem scaleRoundsToNearestWithoutTies : Obligations.ScaleRoundsToNearestWithoutTies := by
  refine ⟨no_tie, fun r q hle hge => ?_, fun r p hp => ?_, by decide⟩
  · rw [scaleRaw, unclamped_eq_of_nearest hle hge]
  · rw [le_scaleRaw_iff, and_iff_right hp]

end Sys2Proof.Machine
end

section
/-! The statements of `spec/41_onewire_decoder.md` about one edge. Two ideas carry them. Inside the bound of its phase `cnt` counts
without wrapping, so the poll (R116) and the fixed delay (R114) have one closed form each, which every PHASE4 row shares. And a
busy phase reads of the input ports the line level alone (R113), so its edge is a function of the registers and that level. -/

namespace Sys2Proof.Machine

/-! ### The poll and the delay inside the bound of a phase -/

section WithinBound

variable {s : State} {p : Phase}

/-- Counting below the bound of any phase never wraps, in whatever phase the state is (R22). -/
theorem bump_of_lt_phaseBound (hl : s.cfg.legal = true) (h : s.cnt < phaseBound s.cfg p)
    (hc : s.cnt ≠ phaseBound s.cfg p - 1) : bump s = { s with cnt := s.cnt + 1 } := by
  obtain ⟨-, hmax⟩ := Cfg.legal_phaseBound hl p
  unfold bump
  rw [Nat.mod_eq_of_lt (by omega)]

/-- R116. -/
theorem wait_of_lt_phaseBound (hl : s.cfg.legal = true) (h : s.cnt < phaseBound s.cfg p) (level : Bool)
    (next : State → State) (e : OneWireError) :
    wait level (phaseBound s.cfg p) next e s
      = if lineSample s = level then next s
        else if s.cnt = phaseBound s.cfg p - 1 then s.afterError e else { s with cnt := s.cnt + 1 } := by
  unfold wait
  split
  · rfl
  · split
    · rfl
    · next hc => exact bump_of_lt_phaseBound hl h hc

/-- R114, R115, R121. -/
theorem delay_of_lt_phaseBound (hl : s.cfg.legal = true) (h : s.cnt < phaseBound s.cfg p) (next : State → State) :
    delay (phaseBound s.cfg p) next s
      = if s.cnt = phaseBound s.cfg p - 1 then next s else { s with cnt := s.cnt + 1 } := by
  unfold delay
  split
  · rfl
  · next hc => exact bump_of_lt_phaseBound hl h hc

end WithinBound

/-! ### The judgement and the next bit -/

theorem validate_eq (s : State) :
    validate s
      = if checksumOk s.frame then s.afterValid (frameByte s.frame 0) else s.afterError .checksumMismatch := rfl

theorem nextBit_of_lt {s : State} (h : s.bitidx.val < 39) :
    nextBit s = { s with bitidx := ⟨s.bitidx.val + 1, Nat.succ_lt_succ h⟩, phase := .bitWait, cnt := 0 } := dif_pos h

theorem nextBit_of_last {s : State} (h : s.bitidx.val = 39) : nextBit s = validate s := dif_neg (by omega)

/-! ### A busy phase reads the line level alone -/

section Commutes

variable {e : Bench} {s : State}

theorem wait_withBench_of_line (h : lineSample (s.withBench e) = lineSample s) {next : State → State}
    (hn : next (s.withBench e) = (next s).withBench e) (level : Bool) (n : Nat) (err : OneWireError) :
    wait level n next err (s.withBench e) = (wait level n next err s).withBench e := by
  unfold wait
  rw [h, hn, apply_ite (State.withBench e), apply_ite (State.withBench e)]
  rfl

/-- R113, R37: of the surroundings a busy phase reads neither `start` nor `raw`. -/
theorem tickRule_withBench_of_busy (hb : s.phase.busy = true) (h : lineSample (s.withBench e) = lineSample s)
    (b b' : Bool) : tickRule b (s.withBench e) = (tickRule b' s).withBench e := by
  rw [tickRule_busy (s := s.withBench e) hb b b']
  unfold tickRule
  rw [show (s.withBench e).phase = s.phase from rfl]
  cases hp : s.phase with
  | idle | done | failed => rw [hp] at hb; cases hb
  | startLow | startSettle => exact delay_withBench (by rfl) _
  | presResp | presLow | presHigh | bitWait => exact wait_withBench_of_line h (by rfl) _ _ _
  | bitDelay =>
    simp only [bitDelayRule, h]
    exact delay_withBench (by rfl) _
  | bitEnd => exact wait_withBench_of_line h nextBit_withBench _ _ _

/-- A tick edge of a read ends alike in two surroundings that agree on the line level and the edges to come. -/
theorem step_withBench_of_busy (hl : s.cfg.legal = true) (hb : s.phase.busy = true) (ht : s.atTick)
    (ht' : (s.withBench e).atTick) (h : lineSample (s.withBench e) = lineSample s) (hs : e.env.tail = s.env.tail)
    (hn : e.edge = s.edge) : step (s.withBench e) = step s := by
  obtain ⟨-, -, henv, hedge⟩ := tickRule_frame (startPort s) s
  rw [step_tick hl ht, step_tick (s := s.withBench e) hl ht',
    tickRule_withBench_of_busy hb h (startPort (s.withBench e)) (startPort s),
    endEdge_withBench (by rw [hs, henv]) (by rw [hn, hedge])]

end Commutes

/-! ### The checksum and a flipped bit -/

/-- R65: wire bit `39 - i` stands in byte `(39 - i) / 8`. -/
theorem frameByte_twoPow_eq_zero_iff {i k : Nat} (hi : i < 40) (hk : k < 5) :
    frameByte (BitVec.twoPow 40 i) k = 0 ↔ k ≠ (39 - i) / 8 := by
  constructor
  · rintro h rfl
    have hbit : (frameByte (BitVec.twoPow 40 i) ((39 - i) / 8)).getLsbD (i % 8) = true := by
      rw [getLsbD_frameByte _ _ (by omega), BitVec.getLsbD_twoPow]
      simp only [Bool.and_eq_true, decide_eq_true_eq]
      omega
    rw [h] at hbit
    simp at hbit
  · intro h
    apply BitVec.eq_of_getLsbD_eq
    intro m hm
    rw [getLsbD_frameByte _ _ hm, BitVec.getLsbD_twoPow]
    simp only [BitVec.ofNat_eq_ofNat, BitVec.getLsbD_zero, Bool.and_eq_false_iff, decide_eq_false_iff_not]
    omega

/-- Flipping a bit of the frame changes the byte it stands in and no other. -/
theorem frameByte_flip_eq_iff (f : FrameWord) {i k : Nat} (hi : i < 40) (hk : k < 5) :
    frameByte (f ^^^ BitVec.twoPow 40 i) k = frameByte f k ↔ k ≠ (39 - i) / 8 := by
  have hxor : frameByte (f ^^^ BitVec.twoPow 40 i) k = frameByte f k ^^^ frameByte (BitVec.twoPow 40 i) k :=
    BitVec.extractLsb'_xor
  have hkeep : frameByte f k ^^^ 0 = frameByte f k := BitVec.xor_zero
  rw [← frameByte_twoPow_eq_zero_iff hi hk, hxor]
  nth_rw 2 [← hkeep]
  exact BitVec.xor_right_inj (frameByte f k)

theorem checksumOk_iff (f : FrameWord) :
    checksumOk f = true ↔
      ((frameByte f 0).toNat + (frameByte f 1).toNat + (frameByte f 2).toNat + (frameByte f 3).toNat) % 256
        = (frameByte f 4).toNat := decide_eq_true_iff

/-- R123: changing exactly one byte breaks the equation, since a byte is determined modulo 256. -/
theorem checksumOk_false_of_one_byte {f g : FrameWord} {j : Nat} (hj : j < 5)
    (h : ∀ k < 5, frameByte g k = frameByte f k ↔ k ≠ j) (hf : checksumOk f = true) : checksumOk g = false := by
  rw [checksumOk_iff] at hf
  rw [Bool.eq_false_iff, ne_eq, checksumOk_iff]
  intro hg
  have hbyte : ∀ k < 5, (frameByte g k).toNat = (frameByte f k).toNat ↔ k ≠ j := fun k hk => by
    rw [← h k hk, BitVec.toNat_inj]
  have hflt : ∀ k, (frameByte f k).toNat < 256 := fun k => (frameByte f k).isLt
  have hglt : ∀ k, (frameByte g k).toNat < 256 := fun k => (frameByte g k).isLt
  have h0 := hbyte 0 (by decide)
  have h1 := hbyte 1 (by decide)
  have h2 := hbyte 2 (by decide)
  have h3 := hbyte 3 (by decide)
  have h4 := hbyte 4 (by decide)
  have := hflt 0; have := hflt 1; have := hflt 2; have := hflt 3
  have := hglt 0; have := hglt 1; have := hglt 2; have := hglt 3
  omega

/-! ### The obligations -/

/-- Settles O52: a flipped bit changes exactly one byte. -/
theorem checksumCatchesEverySingleFlip : Obligations.ChecksumCatchesEverySingleFlip := by
  refine ⟨fun f i hi hf => ?_, by decide, by decide, by decide, by decide⟩
  exact checksumOk_false_of_one_byte (by omega) (fun k hk => frameByte_flip_eq_iff f hi hk) hf

/-- Settles O42: reset and hold edges read no other input, and a busy phase reads of the tick edge's the line level. -/
theorem startAndRawIgnoredWhileBusy : Obligations.StartAndRawIgnoredWhileBusy := by
  intro s i st r e hb
  obtain ⟨hreset, hhold⟩ := resetAndHoldIgnoreOtherInputs s i { i with start := st, raw := r } e
  by_cases hr : i.rst = true
  · exact hreset hr hr
  have hr' : i.rst = false := Bool.eq_false_of_not_eq_true hr
  by_cases ht : i.tick = true
  · refine step_congr_of_legal rfl fun hl => Eq.symm ?_
    exact step_withBench_of_busy (s := { s with env := i :: e })
      (e := { s.toBench with env := { i with start := st, raw := r } :: e }) hl hb ⟨hr', ht⟩ ⟨hr', ht⟩ rfl rfl rfl
  · have ht' : i.tick = false := Bool.eq_false_of_not_eq_true ht
    exact hhold hr' hr' ht' ht'

/-- R131: of the results of a tick edge only the two that raise an error bring a code. -/
theorem TickCase.cause_of_new_err {b : Bool} {s t : State} (h : TickCase b s t) {e : OneWireError}
    (ht : t.err = some e) (hs : s.err ≠ some e) :
    t.phase = .failed
      ∧ ((∃ l, s.phase.awaits = some (l, e) ∧ lineSample s = !l ∧ s.cnt = phaseBound s.cfg s.phase - 1)
        ∨ (e = .checksumMismatch ∧ s.phase = .bitEnd ∧ s.bitidx.val = 39 ∧ lineSample s = false
            ∧ checksumOk s.frame = false)) := by
  cases h with
  | rest | count | move | sample | bit => exact absurd ht hs
  | accept | good => cases ht
  | bad hp hl hlast hk =>
    cases ht
    exact ⟨rfl, .inr ⟨rfl, hp, hlast, hl, hk⟩⟩
  | timeout l e haw hl hc =>
    cases ht
    exact ⟨rfl, .inl ⟨l, haw, hl, hc⟩⟩

/-- Settles O49: reset clears the code and a hold edge keeps it; a tick edge brings one in two cases only. -/
theorem eachErrorComesFromItsPhaseAndCause : Obligations.EachErrorComesFromItsPhaseAndCause := by
  intro s s' e hstep herr hnew
  obtain ⟨-, ⟨-, rfl⟩ | ⟨-, -, rfl⟩ | ⟨ht, rfl⟩⟩ := step_cases hstep
  · cases herr
  · exact absurd herr hnew
  · exact ⟨ht, (tickRule_cases (startPort s) s).cause_of_new_err herr hnew⟩

/-- Settles O12: the accepting state meets the invariant and is busy, so its result word is 0. -/
theorem readBeginsCycleInRestPhase : Obligations.ReadBeginsCycleInRestPhase := by
  intro s hl hr
  have hexec : exec .read s = .next (s.afterAccept (rawPort s)) :=
    (underLegal_of_legal hl _).trans (congrArg Host.Outcome.next (tickRule_rest hr true))
  have hword : (s.afterAccept (rawPort s)).resultWord = 0 := (accept_inv hl (rawPort s)).resultWord_eq_zero nofun nofun
  exact ⟨_, hexec, rfl, toNat_ofNat_scaleRaw _, rfl, rfl, hword, rfl⟩

/-- Settles O14: the three operations answer the tick rule of the phase, which does not read `start`. -/
theorem commandIgnoredWhileBusy : Obligations.CommandIgnoredWhileBusy := by
  intro s hl hb
  have hrule : ∀ b, underLegal s (tickRule b s) = .next (tickRule (startPort s) s) := fun b => by
    rw [tickRule_busy hb b (startPort s), underLegal_of_legal hl]
  exact ⟨s.phase.instr, _, decode_fetchWord s, (exec_phase_instr s).trans (hrule _), hrule true, hrule false⟩

/-- Settles O15: the three rows are one rule. -/
theorem restPhasesBehaveIdentically : Obligations.RestPhasesBehaveIdentically := by
  intro s hl
  have hrule : underLegal s (restRule (startPort s) s)
      = .next (if startPort s then s.afterAccept (rawPort s) else s) := underLegal_of_legal hl _
  exact ⟨hrule, hrule, hrule⟩

/-- Settles O19: the word is its validity bit above the humidity. -/
theorem resultValidCompletesTheRead : Obligations.ResultValidCompletesTheRead := by
  intro s h hl
  have hword : (s.afterValid h).resultWord.toNat = 0x800 + h.toNat := toNat_resultWord (s.afterValid h)
  exact ⟨underLegal_of_legal hl _, hword, rfl, rfl, rfl⟩

/-- Settles O21: both rules are the fixed delay with the bound of their phase. -/
theorem startPhasesCountTheirDelay : Obligations.StartPhasesCountTheirDelay := by
  intro s hl
  refine ⟨fun h => ?_, fun h => ?_⟩ <;> refine (underLegal_of_legal hl _).trans (congrArg Host.Outcome.next ?_)
  · exact delay_of_lt_phaseBound (p := .startLow) hl h _
  · exact delay_of_lt_phaseBound (p := .startSettle) hl h _

/-- Settles O22: the rule is the poll with the bound of its phase. -/
theorem presRespPollsForLow : Obligations.PresRespPollsForLow := fun _ hl h =>
  (underLegal_of_legal hl _).trans
    (congrArg Host.Outcome.next (wait_of_lt_phaseBound (p := .presResp) hl h false _ .noResponse))

/-- Settles O23: both rules are the poll with the bound of their phase. -/
theorem presencePhasesPollTheirHalf : Obligations.PresencePhasesPollTheirHalf := by
  intro s hl
  refine ⟨fun h => ?_, fun h => ?_⟩ <;> refine (underLegal_of_legal hl _).trans (congrArg Host.Outcome.next ?_)
  · exact wait_of_lt_phaseBound (p := .presLow) hl h true _ .presenceLowTimeout
  · exact wait_of_lt_phaseBound (p := .presHigh) hl h false _ .presenceHighTimeout

/-- Settles O24: the rule is the poll with the bound of its phase. -/
theorem bitWaitPollsForHigh : Obligations.BitWaitPollsForHigh := fun _ hl h =>
  (underLegal_of_legal hl _).trans
    (congrArg Host.Outcome.next (wait_of_lt_phaseBound (p := .bitWait) hl h true _ .bitStartTimeout))

/-- R121, with the shift of R56 written as one of the whole register. -/
theorem takeSample_eq (b : Bool) (s : State) :
    takeSample b s = { s with frame := if b then s.frame <<< 1 ||| 1 else s.frame <<< 1, phase := .bitEnd, cnt := 0 } := by
  unfold takeSample
  cases b with
  | false => rw [shiftIn_false]; rfl
  | true => rw [shiftIn_true]; rfl

/-- Settles O25: the rule is the fixed delay with the bound of its phase, and the sample is shifted in at its end. -/
theorem bitDelaySamplesOnce : Obligations.BitDelaySamplesOnce := by
  intro s hl h
  refine (underLegal_of_legal hl _).trans (congrArg Host.Outcome.next ?_)
  rw [← takeSample_eq]
  exact delay_of_lt_phaseBound (p := .bitDelay) hl h _

/-- Settles O26: the rule is the poll with the bound of its phase, and the low sample goes on as the index says. -/
theorem bitEndGoesOnOrValidates : Obligations.BitEndGoesOnOrValidates := by
  intro s hl h
  have hexec : exec .bitEnd s = .next (bitEndRule s) := underLegal_of_legal hl _
  have hrule := wait_of_lt_phaseBound (p := .bitEnd) hl h false nextBit .bitEndTimeout
  have hlow : lineSample s = false → bitEndRule s = nextBit s := fun hline => hrule.trans (if_pos hline)
  refine ⟨fun hline => ?_, fun hline hlt => ?_, fun hline hlast => ?_⟩
  · rw [hexec]
    exact congrArg Host.Outcome.next (hrule.trans (if_neg (by simp [hline])))
  · rw [hexec, hlow hline, nextBit_of_lt hlt]
  · rw [hexec, hlow hline, nextBit_of_last hlast, validate_eq]

end Sys2Proof.Machine
end

section
/-! The statements of `spec/41_onewire_decoder.md` about runs of edges. Three ideas carry them. A busy phase is a poll or a fixed
delay that is left in one way (`State.leave`), so its tick edge has one form. `Reads` runs the registers over the levels of the
line, so a read is put together segment by segment and only then turned into a run of the machine. And a read ends because
`edgesLeft` is what the current phase still allows plus what the phases after it allow. -/

namespace Sys2Proof.Machine

/-! ### The tick edge of a busy phase -/

/-- What a busy phase does at the edge at which it is over (R114 to R122); a rest phase is never over. -/
def State.leave (s : State) : State :=
  match s.phase with
  | .startLow => goto .startSettle s
  | .startSettle => goto .presResp s
  | .presResp => goto .presLow s
  | .presLow => goto .presHigh s
  | .presHigh => goto .bitWait s
  | .bitWait => goto .bitDelay s
  | .bitDelay => takeSample (lineSample s) s
  | .bitEnd => nextBit s
  | .idle | .done | .failed => s

section Leave

variable {s : State}

theorem State.leave_of_follows {q : Phase} (h : s.phase.follows q) : s.leave = goto q s := by
  unfold State.leave
  unfold Phase.follows at h
  cases hp : s.phase <;> cases q <;> simp_all

theorem State.leave_of_bitDelay (h : s.phase = .bitDelay) : s.leave = takeSample (lineSample s) s := by
  unfold State.leave
  rw [h]

theorem State.leave_of_bitEnd (h : s.phase = .bitEnd) : s.leave = nextBit s := by
  unfold State.leave
  rw [h]

/-- R116: the polling phases. -/
theorem tickRule_poll (hl : s.cfg.legal = true) {level : Bool} {e : OneWireError}
    (haw : s.phase.awaits = some (level, e)) (hc : s.cnt < phaseBound s.cfg s.phase) (b : Bool) :
    tickRule b s
      = if lineSample s = level then s.leave
        else if s.cnt = phaseBound s.cfg s.phase - 1 then s.afterError e else { s with cnt := s.cnt + 1 } := by
  rw [← wait_of_lt_phaseBound hl hc level State.leave e]
  unfold tickRule wait State.leave
  cases hp : s.phase with
  | presResp | presLow | presHigh | bitWait | bitEnd =>
    rw [hp] at haw
    cases haw
    rfl
  | _ => rw [hp] at haw; cases haw

/-- R114, R115, R121: the phases with a fixed delay. -/
theorem tickRule_delay (hl : s.cfg.legal = true) (hb : s.phase.busy = true) (haw : s.phase.awaits = none)
    (hc : s.cnt < phaseBound s.cfg s.phase) (b : Bool) :
    tickRule b s = if s.cnt = phaseBound s.cfg s.phase - 1 then s.leave else { s with cnt := s.cnt + 1 } := by
  rw [← delay_of_lt_phaseBound hl hc State.leave]
  unfold tickRule delay State.leave
  cases hp : s.phase with
  | startLow | startSettle | bitDelay => rfl
  | idle | done | failed => rw [hp] at hb; cases hb
  | _ => rw [hp] at haw; cases haw

end Leave

/-! ### The registers over the levels of the line -/

/-- The block with registers `r` in front of a tick edge with line level `l`. -/
def Regs.atLine (c : Cfg) (r : Regs) (l : Bool) : State :=
  { toRegs := r, act := false, env := [tickInputs false l 0], edge := 0, cfg := c }

/-- The registers after a tick edge of a read, at which the line level is all that is read (R113). -/
def Regs.tick (c : Cfg) (r : Regs) (l : Bool) : Regs := (tickRule false (r.atLine c l)).toRegs

/-- In a busy phase the tick rule is `Regs.tick` on the registers. -/
theorem tickRule_toRegs {s : State} (hb : s.phase.busy = true) (b : Bool) :
    (tickRule b s).toRegs = s.toRegs.tick s.cfg (lineSample s) :=
  (congrArg State.toRegs (tickRule_withBench_of_busy (s := s)
    (e := { act := false, env := [tickInputs false (lineSample s) 0], edge := 0 }) hb rfl false b)).symm

/-- The level `l` at a sample does not end phase `p`. -/
def Phase.waitsAt (p : Phase) (l : Bool) : Prop := ∀ x ∈ p.awaits, l = !x.1

theorem Phase.waitsAt_of_delay {p : Phase} (h : p.awaits = none) (l : Bool) : p.waitsAt l := by
  simp [Phase.waitsAt, h]

theorem Phase.waitsAt_of_poll {p : Phase} {level : Bool} {e : OneWireError} (h : p.awaits = some (level, e)) :
    p.waitsAt (!level) := by
  simp [Phase.waitsAt, h]

section Tick

variable {c : Cfg} {r : Regs} {l : Bool} {e : OneWireError}

theorem Regs.tick_count (hl : c.legal = true) (hb : r.phase.busy = true) (hw : r.phase.waitsAt l)
    (hc : r.cnt + 1 < phaseBound c r.phase) : r.tick c l = { r with cnt := r.cnt + 1 } := by
  have hlt : r.cnt < phaseBound c r.phase := by omega
  have hne : r.cnt ≠ phaseBound c r.phase - 1 := by omega
  cases haw : r.phase.awaits with
  | none => exact congrArg State.toRegs ((tickRule_delay (s := r.atLine c l) hl hb haw hlt false).trans (if_neg hne))
  | some x =>
    obtain ⟨level, e⟩ := x
    have hline : lineSample (r.atLine c l) ≠ level := by
      show l ≠ level
      rw [hw _ haw]
      exact Bool.not_ne_self level
    exact congrArg State.toRegs
      ((tickRule_poll (s := r.atLine c l) hl haw hlt false).trans ((if_neg hline).trans (if_neg hne)))

theorem Regs.tick_poll (hl : c.legal = true) (haw : r.phase.awaits = some (l, e)) (hc : r.cnt < phaseBound c r.phase) :
    r.tick c l = (r.atLine c l).leave.toRegs :=
  congrArg State.toRegs ((tickRule_poll (s := r.atLine c l) hl haw hc false).trans (if_pos rfl))

theorem Regs.tick_delay (hl : c.legal = true) (hb : r.phase.busy = true) (haw : r.phase.awaits = none)
    (hc : r.cnt + 1 = phaseBound c r.phase) : r.tick c l = (r.atLine c l).leave.toRegs := by
  have hlt : r.cnt < phaseBound c r.phase := by omega
  have hlast : r.cnt = phaseBound c r.phase - 1 := by omega
  exact congrArg State.toRegs ((tickRule_delay (s := r.atLine c l) hl hb haw hlt false).trans (if_pos hlast))

theorem Regs.tick_timeout (haw : r.phase.awaits = some (l, e)) (hc : r.cnt + 1 = phaseBound c r.phase) :
    r.tick c (!l) = ((r.atLine c (!l)).afterError e).toRegs := by
  have hlast : r.cnt = phaseBound c r.phase - 1 := by omega
  exact congrArg State.toRegs (tickRule_timeout (s := r.atLine c (!l)) haw rfl hlast false)

theorem Regs.leave_of_follows {q : Phase} (h : r.phase.follows q) :
    (r.atLine c l).leave.toRegs = { r with phase := q, cnt := 0 } :=
  congrArg State.toRegs (State.leave_of_follows (s := r.atLine c l) h)

theorem Regs.leave_of_bitDelay (h : r.phase = .bitDelay) :
    (r.atLine c l).leave.toRegs = { r with frame := shiftIn r.frame l, phase := .bitEnd, cnt := 0 } :=
  congrArg State.toRegs (State.leave_of_bitDelay (s := r.atLine c l) h)

theorem Regs.leave_of_bitEnd (h : r.phase = .bitEnd) :
    (r.atLine c l).leave.toRegs = (nextBit (r.atLine c l)).toRegs :=
  congrArg State.toRegs (State.leave_of_bitEnd (s := r.atLine c l) h)

end Tick

/-- `Reads c r ls u`: tick edges of one read with the line levels `ls` lead from the registers `r` to `u`, and each of them
finds the block busy. -/
inductive Reads (c : Cfg) : Regs → List Bool → Regs → Prop where
  | nil (r : Regs) : Reads c r [] r
  | cons {r u : Regs} {l : Bool} {ls : List Bool} (hb : r.phase.busy = true) (h : Reads c (r.tick c l) ls u) :
      Reads c r (l :: ls) u

/-! ### Segments of a read -/

section Segments

variable {c : Cfg} {r u v : Regs} {ls ls' : List Bool}

theorem Reads.append (h : Reads c r ls u) (h' : Reads c u ls' v) : Reads c r (ls ++ ls') v := by
  induction h with
  | nil => exact h'
  | cons hb _ ih => exact .cons hb (ih h')

theorem Reads.single {l : Bool} (hb : r.phase.busy = true) : Reads c r [l] (r.tick c l) := .cons hb (.nil _)

/-- A phase counts the edges that neither end it nor exhaust its bound. -/
theorem Reads.count (hl : c.legal = true) (hb : r.phase.busy = true) (hw : ∀ l ∈ ls, r.phase.waitsAt l)
    (hc : r.cnt + ls.length < phaseBound c r.phase) : Reads c r ls { r with cnt := r.cnt + ls.length } := by
  induction ls generalizing r with
  | nil => exact .nil r
  | cons l ls ih =>
    rw [List.length_cons] at hc ⊢
    have htick : r.tick c l = { r with cnt := r.cnt + 1 } :=
      Regs.tick_count hl hb (hw l List.mem_cons_self) (by omega)
    have hrest := ih (r := { r with cnt := r.cnt + 1 }) hb (fun x hx => hw x (List.mem_cons_of_mem l hx))
      (by show r.cnt + 1 + ls.length < phaseBound c r.phase; omega)
    rw [Nat.add_comm ls.length 1, ← Nat.add_assoc]
    exact .cons hb (htick ▸ hrest)

/-- The samples of a polling phase that it counts: `n` times the other level. -/
theorem Reads.poll_count (hl : c.legal = true) {level : Bool} {e : OneWireError} {n : Nat}
    (haw : r.phase.awaits = some (level, e)) (hcnt : r.cnt = 0) (hn : n < phaseBound c r.phase) :
    Reads c r (List.replicate n (!level)) { r with cnt := n } := by
  have h := Reads.count (ls := List.replicate n (!level)) hl (Phase.busy_of_awaits haw)
    (fun l hmem => List.eq_of_mem_replicate hmem ▸ Phase.waitsAt_of_poll haw) (by simpa [hcnt] using hn)
  rwa [List.length_replicate, hcnt, Nat.zero_add] at h

/-- R116: a polling phase that sees the awaited level after `n` samples of the other one. -/
theorem Reads.poll (hl : c.legal = true) {level : Bool} {e : OneWireError} {n : Nat}
    (haw : r.phase.awaits = some (level, e)) (hcnt : r.cnt = 0) (hn : n < phaseBound c r.phase) :
    Reads c r (List.replicate n (!level) ++ [level])
      (({ r with cnt := n } : Regs).atLine c level).leave.toRegs := by
  have hlast := Reads.single (c := c) (r := { r with cnt := n }) (l := level) (Phase.busy_of_awaits haw)
  rw [Regs.tick_poll (r := { r with cnt := n }) hl haw hn] at hlast
  exact (Reads.poll_count hl haw hcnt hn).append hlast

/-- R117 to R120: a polling phase that only moves on. -/
theorem Reads.poll_follows (hl : c.legal = true) {level : Bool} {e : OneWireError} {n : Nat} {q : Phase}
    (haw : r.phase.awaits = some (level, e)) (hq : r.phase.follows q) (hcnt : r.cnt = 0)
    (hn : n < phaseBound c r.phase) :
    Reads c r (List.replicate n (!level) ++ [level]) { r with phase := q, cnt := 0 } := by
  have h := Reads.poll hl haw hcnt hn
  rwa [Regs.leave_of_follows (r := { r with cnt := n }) hq] at h

/-- R116: a polling phase that sees the other level at each of its samples. -/
theorem Reads.poll_timeout (hl : c.legal = true) {level : Bool} {e : OneWireError}
    (haw : r.phase.awaits = some (level, e)) (hcnt : r.cnt = 0) :
    Reads c r (List.replicate (phaseBound c r.phase) (!level)) ((r.atLine c (!level)).afterError e).toRegs := by
  obtain ⟨n, hn⟩ : ∃ n, phaseBound c r.phase = n + 1 := ⟨phaseBound c r.phase - 1, by
    have := (Cfg.legal_phaseBound hl r.phase).1
    omega⟩
  have hlast := Reads.single (c := c) (r := { r with cnt := n }) (l := !level) (Phase.busy_of_awaits haw)
  rw [Regs.tick_timeout (r := { r with cnt := n }) haw hn.symm] at hlast
  rw [hn, List.replicate_succ']
  exact (Reads.poll_count hl haw hcnt (by omega)).append hlast

/-- A fixed delay, whatever the line shows, with the level at its last edge. -/
theorem Reads.delay {l : Bool} (hl : c.legal = true) (hb : r.phase.busy = true) (haw : r.phase.awaits = none)
    (hcnt : r.cnt = 0) (hn : ls.length + 1 = phaseBound c r.phase) :
    Reads c r (ls ++ [l]) (({ r with cnt := ls.length } : Regs).atLine c l).leave.toRegs := by
  have hcount := Reads.count (ls := ls) hl hb (fun l _ => Phase.waitsAt_of_delay haw l) (by omega)
  rw [hcnt, Nat.zero_add] at hcount
  have hlast := Reads.single (c := c) (r := { r with cnt := ls.length }) (l := l) hb
  rw [Regs.tick_delay (r := { r with cnt := ls.length }) hl hb haw hn] at hlast
  exact hcount.append hlast

/-- R114, R115: a fixed delay that only moves on. -/
theorem Reads.delay_follows {q : Phase} (hl : c.legal = true) (hb : r.phase.busy = true) (haw : r.phase.awaits = none)
    (hq : r.phase.follows q) (hcnt : r.cnt = 0) (hn : ls.length = phaseBound c r.phase) :
    Reads c r ls { r with phase := q, cnt := 0 } := by
  have hne : ls ≠ [] := by
    rintro rfl
    have := (Cfg.legal_phaseBound hl r.phase).1
    rw [← hn] at this
    cases this
  have hlen : ls.dropLast.length + 1 = phaseBound c r.phase := by
    rw [List.length_dropLast, ← hn]
    have := List.length_pos_iff.2 hne
    omega
  have h := Reads.delay (l := ls.getLast hne) hl hb haw hcnt hlen
  rwa [List.dropLast_concat_getLast, Regs.leave_of_follows (r := { r with cnt := ls.dropLast.length }) hq] at h

/-- R114: during the start pulse. -/
theorem Reads.startLow_count (hl : c.legal = true) (hp : r.phase = .startLow) (hcnt : r.cnt = 0)
    (hn : ls.length < c.nStart) : Reads c r ls { r with cnt := ls.length } := by
  have h := Reads.count (ls := ls) hl (by rw [hp]; rfl) (fun l _ => Phase.waitsAt_of_delay (by rw [hp]; rfl) l)
    (by rw [hp, hcnt, Nat.zero_add]; exact hn)
  rwa [hcnt, Nat.zero_add] at h

theorem Reads.startLow (hl : c.legal = true) (hp : r.phase = .startLow) (hcnt : r.cnt = 0)
    (hn : ls.length = c.nStart) : Reads c r ls { r with phase := .startSettle, cnt := 0 } :=
  Reads.delay_follows hl (by rw [hp]; rfl) (by rw [hp]; rfl) (by rw [hp]; trivial) hcnt (by rw [hp]; exact hn)

/-- R115: during the release after the start pulse. -/
theorem Reads.startSettle_count (hl : c.legal = true) (hp : r.phase = .startLow) (hcnt : r.cnt = 0)
    (hlo : c.nStart ≤ ls.length) (hhi : ls.length < c.nStart + c.nSettle) :
    Reads c r ls { r with phase := .startSettle, cnt := ls.length - c.nStart } := by
  have h1 : Reads c r (ls.take c.nStart) { r with phase := .startSettle, cnt := 0 } :=
    Reads.startLow hl hp hcnt (by rw [List.length_take]; omega)
  have h2 := Reads.count (c := c) (r := { r with phase := .startSettle, cnt := 0 }) (ls := ls.drop c.nStart) hl rfl
    (fun l _ => Phase.waitsAt_of_delay rfl l) (by
      show 0 + (ls.drop c.nStart).length < c.nSettle
      rw [List.length_drop]
      omega)
  have h := h1.append h2
  rwa [List.take_append_drop, List.length_drop, Nat.zero_add] at h

/-- R114, R115: the start pulse and the release after it. -/
theorem Reads.startPulse (hl : c.legal = true) (hp : r.phase = .startLow) (hcnt : r.cnt = 0)
    (hn : ls.length = c.nStart + c.nSettle) : Reads c r ls { r with phase := .presResp, cnt := 0 } := by
  have h1 : Reads c r (ls.take c.nStart) { r with phase := .startSettle, cnt := 0 } :=
    Reads.startLow hl hp hcnt (by rw [List.length_take]; omega)
  have h2 : Reads c { r with phase := .startSettle, cnt := 0 } (ls.drop c.nStart) { r with phase := .presResp, cnt := 0 } :=
    Reads.delay_follows (r := { r with phase := .startSettle, cnt := 0 }) hl rfl rfl trivial rfl (by
      show (ls.drop c.nStart).length = c.nSettle
      rw [List.length_drop]
      omega)
  have h := h1.append h2
  rwa [List.take_append_drop] at h

end Segments

/-! ### From the registers to a run of the machine -/

/-- What a step leaves behind beside the registers (R240, R180; log entries 1 and 7). -/
theorem step_frame {s t : State} (h : step s = .next t) :
    t.cfg = s.cfg ∧ t.act = t.actO ∧ t.env = s.env.tail ∧ t.edge = s.edge + 1 := by
  obtain ⟨-, ⟨-, rfl⟩ | ⟨-, -, rfl⟩ | ⟨-, rfl⟩⟩ := step_cases h
  · exact ⟨rfl, rfl, rfl, rfl⟩
  · exact ⟨rfl, rfl, rfl, rfl⟩
  · obtain ⟨hcfg, -, henv, hedge⟩ := tickRule_frame (startPort s) s
    exact ⟨hcfg, rfl, congrArg List.tail henv, congrArg (· + 1) hedge⟩

/-- The first step of a run that answers. -/
theorem run_succ_cases {s t : State} {n : Nat} (h : Host.Core.run core (n + 1) s = .next t) :
    ∃ u, step s = .next u ∧ Host.Core.run core n u = .next t := by
  cases hs : step s with
  | next u => exact ⟨u, rfl, by rwa [run_succ hs] at h⟩
  | fault f => cases f
  | refused f => rw [run_refused hs] at h; cases h

theorem run_frame {s t : State} {n : Nat} (h : Host.Core.run core n s = .next t) :
    t.cfg = s.cfg ∧ t.env = s.env.drop n ∧ t.edge = s.edge + n ∧ (0 < n → t.act = t.actO) := by
  induction n generalizing s with
  | zero =>
    cases h
    exact ⟨rfl, rfl, rfl, fun h => absurd h (Nat.lt_irrefl 0)⟩
  | succ n ih =>
    obtain ⟨u, hs, hrun⟩ := run_succ_cases h
    obtain ⟨hcfg, hact, henv, hedge⟩ := step_frame hs
    obtain ⟨hcfg', henv', hedge', hact'⟩ := ih hrun
    refine ⟨hcfg'.trans hcfg, ?_, by omega, fun _ => ?_⟩
    · rw [henv', henv, List.drop_tail]
    · cases n with
      | zero => cases hrun; exact hact
      | succ n => exact hact' (Nat.succ_pos n)

/-- Every state of a run from a state of the invariant meets it (R33). -/
theorem run_inv {s t : State} {n : Nat} (hi : s.Inv) (h : Host.Core.run core n s = .next t) : t.Inv := by
  induction n generalizing s with
  | zero => cases h; exact hi
  | succ n ih =>
    obtain ⟨u, hs, hrun⟩ := run_succ_cases h
    exact ih (everyStepKeepsTheRegisterInvariant s u hi hs) hrun

/-- The script begins with tick edges that show the line levels `ls`. -/
def State.playsLine (s : State) (ls : List Bool) : Prop :=
  ∃ is rest, s.env = is ++ rest ∧ allTicks is ∧ is.map Inputs.dq = ls

theorem State.playsLine.of_append {s : State} {ls ls' : List Bool} (h : s.playsLine (ls ++ ls')) : s.playsLine ls := by
  obtain ⟨is, rest, henv, htick, hdq⟩ := h
  obtain ⟨js, js', rfl, rfl, -⟩ := List.map_eq_append_iff.1 hdq
  exact ⟨js, js' ++ rest, by rw [henv, List.append_assoc], fun i hi => htick i (List.mem_append_left _ hi), rfl⟩

theorem State.playsLine.take {s : State} {ls : List Bool} (h : s.playsLine ls) (n : Nat) : s.playsLine (ls.take n) :=
  State.playsLine.of_append (ls' := ls.drop n) (by rwa [List.take_append_drop])

theorem isTickEdge_iff (i : Inputs) : isTickEdge i = true ↔ i.rst = false ∧ i.tick = true := by
  simp [isTickEdge]

/-- A tick edge of a read is `Regs.tick` on the registers. -/
theorem step_busy {s : State} {l : Bool} {ls : List Bool} (hl : s.cfg.legal = true) (hb : s.phase.busy = true)
    (hs : s.playsLine (l :: ls)) :
    ∃ t, step s = .next t ∧ t.cfg = s.cfg ∧ t.toRegs = s.toRegs.tick s.cfg l ∧ t.playsLine ls := by
  obtain ⟨is, rest, henv, htick, hdq⟩ := hs
  obtain ⟨i, js, rfl, hi, hjs⟩ := List.map_eq_cons_iff.1 hdq
  have hin : s.inputs = i := inputs_of_env henv
  have hat : s.atTick := by rw [State.atTick, hin, ← isTickEdge_iff]; exact htick i List.mem_cons_self
  have hstep := step_tick hl hat
  obtain ⟨hcfg, -, henv', -⟩ := step_frame hstep
  refine ⟨_, hstep, hcfg, ?_, js, rest, ?_, fun j hj => htick j (List.mem_cons_of_mem i hj), hjs⟩
  · rw [endEdge_toRegs, tickRule_toRegs hb, lineSample, hin, hi]
  · rw [henv', henv]
    rfl

/-- The run of the machine over the levels of a segment of a read. -/
theorem Reads.run {c : Cfg} {s : State} {r u : Regs} {ls : List Bool} (h : Reads c r ls u) (hcfg : s.cfg = c)
    (hregs : s.toRegs = r) (hl : c.legal = true) (hs : s.playsLine ls) :
    (∃ t, Host.Core.run core ls.length s = .next t ∧ t.toRegs = u)
      ∧ ∀ m < ls.length, ∃ w, Host.Core.run core m s = .next w ∧ w.busyO = true := by
  induction h generalizing s with
  | nil r => exact ⟨⟨s, rfl, hregs⟩, fun m hm => absurd hm (Nat.not_lt_zero m)⟩
  | cons hb h ih =>
    have hbusy : s.phase.busy = true := by rw [hregs]; exact hb
    obtain ⟨t, hstep, htcfg, htregs, htline⟩ := step_busy (hcfg ▸ hl) hbusy hs
    obtain ⟨hend, hmid⟩ := ih (htcfg.trans hcfg) (by rw [htregs, hregs, hcfg]) htline
    rw [List.length_cons]
    refine ⟨by rwa [run_succ hstep], fun m hm => ?_⟩
    cases m with
    | zero => exact ⟨s, rfl, hbusy⟩
    | succ m =>
      rw [run_succ hstep]
      exact hmid m (by omega)

end Sys2Proof.Machine
end

section
/-! The statements of `spec/41_onewire_decoder.md` about the start pulse, one polling phase, and the end of every read. -/

namespace Sys2Proof.Machine

/-! ### States and scripts in parts -/

theorem State.eq_of_parts {s t : State} (hregs : s.toRegs = t.toRegs) (hcfg : s.cfg = t.cfg) (hact : s.act = t.act)
    (henv : s.env = t.env) (hedge : s.edge = t.edge) : s = t := by
  obtain ⟨r, ⟨act, env, edge⟩, c⟩ := s
  obtain ⟨r', ⟨act', env', edge'⟩, c'⟩ := t
  simp only at hregs hcfg hact henv hedge
  rw [hregs, hcfg, hact, henv, hedge]

theorem map_dq_eq_replicate {is : List Inputs} {l : Bool} (h : ∀ i ∈ is, i.dq = l) :
    is.map Inputs.dq = List.replicate is.length l := by
  rw [List.eq_replicate_iff, List.length_map]
  refine ⟨rfl, fun x hx => ?_⟩
  obtain ⟨i, hi, rfl⟩ := List.mem_map.1 hx
  exact h i hi

/-- The run over a segment of a read, told by its last state alone. -/
theorem Reads.run_end {s : State} {u : Regs} {ls : List Bool} (h : Reads s.cfg s.toRegs ls u) (hl : s.cfg.legal = true)
    (hs : s.playsLine ls) : ∃ t, Host.Core.run core ls.length s = .next t ∧ t.toRegs = u :=
  (h.run rfl rfl hl hs).1

/-! ### Leaving a polling phase -/

/-- R116, R131: a polling phase left by the awaited level does not raise its own error. -/
theorem State.leave_poll {s : State} {level : Bool} {e : OneWireError} (haw : s.phase.awaits = some (level, e))
    (herr : s.err = none) : s.leave.phase ≠ s.phase ∧ s.leave.cnt = 0 ∧ s.leave.err ≠ some e := by
  have hmove : ∀ q, s.phase.follows q → q ≠ s.phase →
      s.leave.phase ≠ s.phase ∧ s.leave.cnt = 0 ∧ s.leave.err ≠ some e := fun q hq hne => by
    rw [State.leave_of_follows hq]
    exact ⟨hne, rfl, by simp [herr]⟩
  cases hp : s.phase with
  | presResp => exact hp ▸ hmove .presLow (by rw [hp]; trivial) (by simp [hp])
  | presLow => exact hp ▸ hmove .presHigh (by rw [hp]; trivial) (by simp [hp])
  | presHigh => exact hp ▸ hmove .bitWait (by rw [hp]; trivial) (by simp [hp])
  | bitWait => exact hp ▸ hmove .bitDelay (by rw [hp]; trivial) (by simp [hp])
  | bitEnd =>
    rw [hp] at haw
    cases haw
    rw [State.leave_of_bitEnd hp]
    obtain ⟨hlt, hnext⟩ | ⟨-, hnext⟩ := nextBit_cases s
    · rw [hnext]
      exact ⟨nofun, rfl, by simp [herr]⟩
    · rw [hnext]
      obtain ⟨-, hval⟩ | ⟨-, hval⟩ := validate_cases s
      · rw [hval]
        exact ⟨nofun, rfl, nofun⟩
      · rw [hval]
        exact ⟨nofun, rfl, nofun⟩
  | _ => rw [hp] at haw; cases haw

/-! ### The ranking -/

/-- The most tick edges the phases after `p` can take, at bit `k`. -/
def edgesAfter (c : Cfg) (k : Nat) : Phase → Nat
  | .startLow => c.nSettle + maxSlots c
  | .startSettle => maxSlots c
  | .presResp => c.nPlow + c.nPhigh + 40 * bitCost c
  | .presLow => c.nPhigh + 40 * bitCost c
  | .presHigh => 40 * bitCost c
  | .bitWait => c.nSample + c.nBend + (39 - k) * bitCost c
  | .bitDelay => c.nBend + (39 - k) * bitCost c
  | .bitEnd => (39 - k) * bitCost c
  | .idle | .done | .failed => 0

/-- The ranking is what the phase allows and what the phases after it allow. -/
theorem edgesLeft_of_busy {s : State} (hb : s.phase.busy = true) :
    edgesLeft s = phaseBound s.cfg s.phase - s.cnt + edgesAfter s.cfg s.bitidx.val s.phase := by
  unfold edgesLeft
  cases hp : s.phase with
  | idle | done | failed => rw [hp] at hb; cases hb
  | _ => simp only [phaseBound, edgesAfter, Nat.add_assoc]

theorem edgesLeft_of_rest {s : State} (hr : s.phase.busy = false) : edgesLeft s = 0 := by
  unfold edgesLeft
  cases hp : s.phase with
  | idle | done | failed => rfl
  | _ => rw [hp] at hr; cases hr

theorem edgesLeft_endEdge (s : State) : edgesLeft (endEdge s) = edgesLeft s := rfl

/-- What is left for bit `k` and the ones after it (R128). -/
theorem bitCost_add (c : Cfg) {k : Nat} (hk : k < 39) : bitCost c + (39 - (k + 1)) * bitCost c = (39 - k) * bitCost c := by
  rw [Nat.add_comm, ← Nat.succ_mul]
  congr 1
  omega

/-- A phase allows after it at least what the next one allows in all. -/
theorem edgesAfter_of_follows (c : Cfg) (k : Nat) {p q : Phase} (h : p.follows q) :
    q.busy = true ∧ phaseBound c q + edgesAfter c k q ≤ edgesAfter c k p := by
  have hbits : (39 - k) * bitCost c ≤ 39 * bitCost c := Nat.mul_le_mul_right _ (Nat.sub_le _ _)
  unfold Phase.follows at h
  split at h
  case h_7 => exact h.elim
  all_goals
    refine ⟨rfl, ?_⟩
    dsimp only [phaseBound, edgesAfter, maxSlots, bitCost] at hbits ⊢
    omega

/-- R128: a tick edge of a read counts or moves on, and either way less is left. -/
theorem TickCase.edgesLeft_lt {b : Bool} {s t : State} (hl : s.cfg.legal = true) (hi : s.Inv)
    (hb : s.phase.busy = true) (h : TickCase b s t) : edgesLeft t < edgesLeft s := by
  have hcnt := hi.cnt_lt
  have hs := edgesLeft_of_busy hb
  cases h with
  | rest hr | accept hr => rw [hr] at hb; cases hb
  | count _ hc =>
    obtain ⟨hbump, hlt⟩ := bump_eq hl hcnt hc
    have ht := edgesLeft_of_busy (s := bump s) hb
    simp only [hbump] at ht
    rw [hbump]
    omega
  | move q hq =>
    obtain ⟨hqb, hle⟩ := edgesAfter_of_follows s.cfg s.bitidx.val hq
    have ht := edgesLeft_of_busy (s := goto q s) hqb
    simp only [goto_cfg, goto_phase, goto_cnt, goto_bitidx] at ht
    omega
  | sample hp =>
    have ht := edgesLeft_of_busy (s := takeSample (lineSample s) s) rfl
    rw [hp] at hs hcnt
    simp only [takeSample_cfg, takeSample_phase, takeSample_cnt, takeSample_bitidx, phaseBound, edgesAfter] at ht hs hcnt
    omega
  | bit hp _ hlt =>
    have ht := edgesLeft_of_busy
      (s := { s with bitidx := ⟨s.bitidx.val + 1, Nat.succ_lt_succ hlt⟩, phase := .bitWait, cnt := 0 }) rfl
    have hbits := bitCost_add s.cfg hlt
    rw [hp] at hs hcnt
    simp only [phaseBound, edgesAfter] at ht hs hcnt
    rw [ht, hs, ← hbits]
    simp only [bitCost]
    omega
  | good | bad | timeout =>
    rw [edgesLeft_of_rest rfl]
    omega

/-! ### From acceptance to the end of a read -/

/-- R112: the edge that accepts a read. -/
theorem step_accept {s : State} {i : Inputs} {rest : List Inputs} (hl : s.cfg.legal = true)
    (hr : s.phase.busy = false) (henv : s.env = i :: rest) (hi : isTickEdge i = true) (hstart : i.start = true) :
    ∃ t, step s = .next t ∧ t.cfg = s.cfg ∧ t.env = rest
      ∧ t.toRegs = (s.afterAccept (i.raw % 2 ^ s.cfg.rawW)).toRegs ∧ t.Inv := by
  have hin : s.inputs = i := inputs_of_env henv
  have hat : s.atTick := by rw [State.atTick, hin, ← isTickEdge_iff]; exact hi
  have hrule : tickRule (startPort s) s = accept (rawPort s) s := by
    rw [tickRule_rest hr, if_pos (by rw [startPort, hin, hstart])]
  have hraw : rawPort s = i.raw % 2 ^ s.cfg.rawW := by rw [rawPort, hin]
  refine ⟨endEdge (accept (rawPort s) s), by rw [step_tick hl hat, hrule], rfl, congrArg List.tail henv, ?_,
    (accept_inv hl _).endEdge⟩
  rw [hraw]
  rfl

/-- R114, R115, R129: the accepting edge and the start pulse, up to the first slot. -/
theorem run_to_first_slot {s : State} {i : Inputs} {pre rest : List Inputs} (hl : s.cfg.legal = true)
    (hr : s.phase.busy = false) (henv : s.env = i :: (pre ++ rest)) (htick : allTicks (i :: pre))
    (hstart : i.start = true) (hpre : pre.length = s.cfg.nStart + s.cfg.nSettle) :
    ∃ t, Host.Core.run core (s.cfg.nStart + s.cfg.nSettle + 1) s = .next t ∧ t.cfg = s.cfg ∧ t.env = rest ∧ t.Inv
      ∧ t.toRegs = { (s.afterAccept (i.raw % 2 ^ s.cfg.rawW)).toRegs with phase := .presResp, cnt := 0 }
      ∧ ∀ m < s.cfg.nStart + s.cfg.nSettle, ∃ u, Host.Core.run core (m + 1) s = .next u ∧ u.busyO = true := by
  obtain ⟨s1, hstep, hcfg1, henv1, hregs1, hinv1⟩ := step_accept hl hr henv (htick i List.mem_cons_self) hstart
  have hline : s1.playsLine (pre.map Inputs.dq) :=
    ⟨pre, rest, henv1, fun j hj => htick j (List.mem_cons_of_mem i hj), rfl⟩
  have hread := Reads.startPulse (r := (s.afterAccept (i.raw % 2 ^ s.cfg.rawW)).toRegs) (ls := pre.map Inputs.dq) hl rfl rfl
    (by rwa [List.length_map])
  obtain ⟨⟨t, hrun, hregs⟩, hmid⟩ := hread.run hcfg1 hregs1 hl hline
  rw [List.length_map, hpre] at hrun hmid
  obtain ⟨hcfg, henv', -⟩ := run_frame hrun
  refine ⟨t, by rwa [run_succ hstep], hcfg.trans hcfg1, ?_, run_inv hinv1 hrun, hregs, fun m hm => ?_⟩
  · rw [henv', henv1, ← hpre, List.drop_left]
  · rw [run_succ hstep]
    exact hmid m hm

/-- Two stretches of a read in a row. -/
theorem busy_run_add {s t : State} {m n : Nat} (h : Host.Core.run core (m + 1) s = .next t)
    (hm : ∀ k < m, ∃ u, Host.Core.run core (k + 1) s = .next u ∧ u.busyO = true)
    (hn : ∀ k < n, ∃ u, Host.Core.run core k t = .next u ∧ u.busyO = true) :
    ∀ k < m + n, ∃ u, Host.Core.run core (k + 1) s = .next u ∧ u.busyO = true := by
  intro k hk
  obtain hlt | hge := Nat.lt_or_ge k m
  · exact hm k hlt
  · obtain ⟨j, rfl⟩ := Nat.exists_eq_add_of_le hge
    rw [Nat.add_right_comm, run_add _ _ h]
    exact hn j (by omega)

/-- A tick edge of a read leaves the block busy or with a result. -/
theorem TickCase.busy_or_done {b : Bool} {s t : State} (hb : s.phase.busy = true) (h : TickCase b s t) :
    t.phase.busy = true ∨ t.phase = .done ∨ t.phase = .failed := by
  cases h with
  | rest hr | accept hr => rw [hr] at hb; cases hb
  | count => exact .inl hb
  | move q hq => exact .inl (edgesAfter_of_follows s.cfg 0 hq).1
  | sample | bit => exact .inl rfl
  | good => exact .inr (.inl rfl)
  | bad | timeout => exact .inr (.inr rfl)

/-- R32: a state of the invariant that shows a result denotes a reading. -/
theorem State.Inv.done_reading {t : State} (hi : t.Inv) (h : t.phase = .done ∨ t.phase = .failed) :
    t.doneO = true ∧ t.reading.isSome = true := by
  refine ⟨decide_eq_true h, ?_⟩
  obtain hd | hf := h
  · rw [State.reading, hd]
    rfl
  · obtain ⟨e, -, hread⟩ := hi.exists_err_of_failed hf
    rw [hread]
    rfl

/-- R128: enough tick edges end the read in progress, and every edge before that finds it in progress. -/
theorem read_ends {s : State} {is rest : List Inputs} (hl : s.cfg.legal = true) (hi : s.Inv)
    (hb : s.phase.busy = true) (henv : s.env = is ++ rest) (htick : allTicks is) (hlen : edgesLeft s ≤ is.length) :
    ∃ n, 1 ≤ n ∧ n ≤ edgesLeft s
      ∧ (∃ t, Host.Core.run core n s = .next t ∧ t.doneO = true ∧ t.reading.isSome = true)
      ∧ ∀ m < n, ∃ u, Host.Core.run core m s = .next u ∧ u.busyO = true := by
  induction is generalizing s with
  | nil =>
    have hpos := edgesLeft_of_busy hb
    have hcnt := hi.cnt_lt
    simp only [List.length_nil] at hlen
    omega
  | cons i is ih =>
    have hat : s.atTick := by
      rw [State.atTick, inputs_of_env henv, ← isTickEdge_iff]
      exact htick i List.mem_cons_self
    have hstep := step_tick hl hat
    have hcase := tickRule_cases (startPort s) s
    have hlt := hcase.edgesLeft_lt hl hi hb
    have hend := hcase.busy_or_done hb
    rw [← edgesLeft_endEdge] at hlt
    rw [← endEdge_phase] at hend
    generalize endEdge (tickRule (startPort s) s) = t at hstep hlt hend
    have hti : t.Inv := everyStepKeepsTheRegisterInvariant s t hi hstep
    obtain ⟨htcfg, -, htenv, -⟩ := step_frame hstep
    rw [henv] at htenv
    rw [List.length_cons] at hlen
    obtain hbusy | hdone := hend
    · obtain ⟨n, -, hn, hlast, hmid⟩ := ih (htcfg ▸ hl) hti hbusy htenv
        (fun j hj => htick j (List.mem_cons_of_mem i hj)) (by omega)
      refine ⟨n + 1, Nat.succ_pos n, by omega, by rwa [run_succ hstep], fun m hm => ?_⟩
      cases m with
      | zero => exact ⟨s, rfl, hb⟩
      | succ m =>
        rw [run_succ hstep]
        exact hmid m (by omega)
    · refine ⟨1, le_rfl, by omega, ⟨t, run_succ hstep 0, hti.done_reading hdone⟩, fun m hm => ?_⟩
      obtain rfl : m = 0 := by omega
      exact ⟨s, rfl, hb⟩

/-! ### The obligations -/

/-- Settles O53: the two delays as segments of a read, and what an edge leaves behind beside the registers. -/
theorem startPulseLastsExactly : Obligations.StartPulseLastsExactly := by
  intro s pre rest hl hp hcnt henv htick hlen
  have hline : s.playsLine (pre.map Inputs.dq) := ⟨pre, rest, henv, htick, rfl⟩
  constructor
  · intro n hn
    have hlen' : ((pre.map Inputs.dq).take n).length = n := by rw [List.length_take, List.length_map]; omega
    by_cases hlow : n < s.cfg.nStart
    · have hread := Reads.startLow_count (r := s.toRegs) (ls := (pre.map Inputs.dq).take n) hl hp hcnt
        (by rwa [hlen'])
      obtain ⟨t, hrun, ht⟩ := hread.run_end hl (hline.take n)
      rw [hlen'] at hrun ht
      have hphase : t.phase = .startLow := by rw [ht]; exact hp
      exact ⟨t, hrun, by simp [State.dqDriveLow, hphase, hlow], fun _ => ⟨hphase, by rw [ht]⟩, fun h => by omega⟩
    · have hread := Reads.startSettle_count (r := s.toRegs) (ls := (pre.map Inputs.dq).take n) hl hp hcnt
        (by rw [hlen']; omega) (by rw [hlen']; omega)
      obtain ⟨t, hrun, ht⟩ := hread.run_end hl (hline.take n)
      rw [hlen'] at hrun ht
      have hphase : t.phase = .startSettle := by rw [ht]
      exact ⟨t, hrun, by simp [State.dqDriveLow, hphase, hlow], fun h => absurd h hlow, fun _ => ⟨hphase, by rw [ht]⟩⟩
  · have hread := Reads.startPulse (r := s.toRegs) (ls := pre.map Inputs.dq) hl hp hcnt (by rwa [List.length_map])
    obtain ⟨t, hrun, ht⟩ := hread.run_end hl hline
    rw [List.length_map] at hrun
    obtain ⟨htcfg, htenv, htedge, htact⟩ := run_frame hrun
    have hpos : 0 < pre.length := by
      have : 1 ≤ s.cfg.nStart := (Cfg.legal_phaseBound hl .startLow).1
      omega
    rw [hrun]
    refine congrArg Host.Outcome.next (State.eq_of_parts ht htcfg ?_ ?_ htedge)
    · rw [htact hpos]
      show applySink t.cfg t.watering = applySink s.cfg s.watering
      rw [htcfg, ht]
    · rw [htenv, henv, List.drop_left]

/-- Settles O54: the samples that the phase counts, and then the one that exhausts its bound. -/
theorem pollFailsAtTheLastAllowedSample : Obligations.PollFailsAtTheLastAllowedSample := by
  intro s l e is rest hl haw hcnt henv htick hdq hlen
  have hline : s.playsLine (List.replicate is.length (!l)) := ⟨is, rest, henv, htick, map_dq_eq_replicate hdq⟩
  constructor
  · intro n hn
    have hread := Reads.poll_count (r := s.toRegs) (n := n) hl haw hcnt (hlen ▸ hn)
    have hline' := hline.take n
    rw [List.take_replicate, Nat.min_eq_left hn.le] at hline'
    obtain ⟨t, hrun, ht⟩ := hread.run_end hl hline'
    rw [List.length_replicate] at hrun
    exact ⟨t, hrun, by rw [ht], by rw [ht], by rw [ht]⟩
  · have hread := Reads.poll_timeout (r := s.toRegs) hl haw hcnt
    rw [hlen] at hline
    obtain ⟨t, hrun, ht⟩ := hread.run_end hl hline
    rw [List.length_replicate, ← hlen] at hrun
    refine ⟨t, hrun, ?_⟩
    rw [ht]
    exact ⟨rfl, rfl, rfl, rfl, rfl, rfl, rfl⟩

/-- Settles O55: the samples that the phase counts, and then the one that ends it. -/
theorem pollPassesAtAnyAllowedSample : Obligations.PollPassesAtAnyAllowedSample := by
  intro s l e is rest i hl haw hcnt herr henv htick hdq hi hlen
  have hline : s.playsLine (List.replicate is.length (!l) ++ [l]) := by
    refine ⟨is ++ [i], rest, by rw [henv, List.append_assoc]; rfl, htick, ?_⟩
    rw [List.map_append, map_dq_eq_replicate hdq, ← hi]
    rfl
  obtain ⟨t, hrun, ht⟩ := (Reads.poll (r := s.toRegs) hl haw hcnt hlen).run_end hl hline
  rw [List.length_append, List.length_replicate, List.length_singleton] at hrun
  obtain ⟨-, htenv, -⟩ := run_frame hrun
  obtain ⟨hphase, hcnt', herr'⟩ := State.leave_poll (s := Regs.atLine s.cfg { s.toRegs with cnt := is.length } l) haw herr
  refine ⟨t, hrun, by rw [ht]; exact hphase, by rw [ht]; exact hcnt', by rw [ht]; exact herr', ?_⟩
  rw [htenv, henv, List.drop_append]
  simp

/-- Settles O56: whatever the tick edge does, less is left. -/
theorem everyTickOfAReadCountsDown : Obligations.EveryTickOfAReadCountsDown :=
  fun s hl hi hb ht => ⟨_, step_tick hl ht, by
    rw [edgesLeft_endEdge]
    exact (tickRule_cases (startPort s) s).edgesLeft_lt hl hi hb⟩

/-- Settles O57: the accepting edge and the start pulse take their exact time, and then the ranking is the bound of R128. -/
theorem everyReadEndsWithinItsBound : Obligations.EveryReadEndsWithinItsBound := by
  intro s i is rest hl hr henv htick hstart hlen
  obtain ⟨pre, line, rfl, hpre⟩ : ∃ pre line, is = pre ++ line ∧ pre.length = s.cfg.nStart + s.cfg.nSettle :=
    ⟨is.take (s.cfg.nStart + s.cfg.nSettle), is.drop _, (List.take_append_drop _ _).symm, by
      rw [List.length_take]; omega⟩
  have henv' : s.env = i :: (pre ++ (line ++ rest)) := henv.trans (by simp)
  obtain ⟨htick1, htick2⟩ : allTicks (i :: pre) ∧ allTicks line := List.forall_mem_append.1 htick
  obtain ⟨t, hrun, hcfg, htenv, hinv, hregs, hmid⟩ := run_to_first_slot hl hr henv' htick1 hstart hpre
  have hphase : t.phase = .presResp := by rw [hregs]
  have hleft : edgesLeft t = maxSlots s.cfg := by
    have hcnt : t.cnt = 0 := by rw [hregs]
    unfold edgesLeft maxSlots
    rw [hphase, hcnt, hcfg]
    rfl
  have henough : edgesLeft t ≤ line.length := by
    rw [List.length_append] at hlen
    omega
  obtain ⟨n, hn1, hn, ⟨w, hrun', hdone⟩, hmid'⟩ :=
    read_ends (hcfg ▸ hl) hinv (by rw [hphase]; rfl) htenv htick2 henough
  refine ⟨s.cfg.nStart + s.cfg.nSettle + n, by omega, by omega, ⟨w, ?_, hdone⟩, busy_run_add hrun hmid hmid'⟩
  rw [Nat.add_right_comm, run_add _ _ hrun, hrun']

end Sys2Proof.Machine
end

section
/-! The acceptance region of `spec/41_onewire_decoder.md` (R130) and its longest read (R128). The idea is where the segments of a
line are cut: every polling phase uses up the first slot of the next pulse, and after a 0 bit the delay and `BIT_END` use up
`N_SAMPLE + 2 - h` slots of the next low run. Cut there, each piece of the script is one phase. -/

namespace Sys2Proof.Machine

/-! ### The end of a read on the registers -/

/-- The reading a complete frame denotes (R123). -/
def Regs.verdict (r : Regs) : Reading :=
  if checksumOk r.frame then .valid (frameByte r.frame 0) else .invalid .checksumMismatch

/-- The registers after the edge that judges the frame (R123, R124, R206). -/
def Regs.judged (c : Cfg) (r : Regs) : Regs := (validate (r.atLine c false)).toRegs

theorem State.reading_congr {s t : State} (h : s.toRegs = t.toRegs) : s.reading = t.reading := by
  unfold State.reading
  rw [h]

/-- R123, R187: the judgement delivers the verdict with the decision on it, and holds every register but those of the result. -/
theorem validate_spec (s : State) :
    (validate s).reading = some s.toRegs.verdict
      ∧ (validate s).watering = decideWatering s.cfg s.watering s.moist.toNat s.toRegs.verdict
      ∧ (validate s).frame = s.frame ∧ (validate s).bitidx = s.bitidx ∧ (validate s).moist = s.moist := by
  unfold Regs.verdict
  obtain ⟨hk, hval⟩ | ⟨hk, hval⟩ := validate_cases s
  · rw [hval, hk]
    exact ⟨rfl, rfl, rfl, rfl, rfl⟩
  · rw [hval, hk]
    exact ⟨rfl, rfl, rfl, rfl, rfl⟩

/-! ### The conditions on one bit -/

/-- The low slots after a bit's high pulse that are used up before the next bit is polled for (R121, R122). -/
def WireBit.tail (c : Cfg) (b : WireBit) : Nat := if b.v then 1 else c.nSample + 2 - b.h

/-- The bounds of R130 (e) and (f) on the high pulse of a bit. -/
def WireBit.HighOk (c : Cfg) (b : WireBit) : Prop :=
  (b.v = true ∧ c.nSample + 1 ≤ b.h ∧ b.h ≤ c.nSample + c.nBend) ∨ (b.v = false ∧ 1 ≤ b.h ∧ b.h ≤ c.nSample)

theorem one_le_nextLow {c : Cfg} {bs : List WireBit} {z : Nat} (h : bitsAccepted c bs z = true) : 1 ≤ nextLow bs z := by
  cases bs with
  | nil => simpa [bitsAccepted, nextLow] using h
  | cons b bs =>
    simp only [bitsAccepted, Bool.and_eq_true, decide_eq_true_eq] at h
    exact h.1.1.1

/-- R130 (d) to (g), for the first of the bits. -/
theorem bitsAccepted_cons {c : Cfg} {b : WireBit} {bs : List WireBit} {z : Nat} (h : bitsAccepted c (b :: bs) z = true) :
    1 ≤ b.l ∧ b.l ≤ c.nBstart ∧ b.HighOk c ∧ b.tail c ≤ nextLow bs z ∧ bitsAccepted c bs z = true := by
  simp only [bitsAccepted, Bool.and_eq_true, decide_eq_true_eq] at h
  obtain ⟨⟨⟨hl1, hl2⟩, hhigh⟩, hrest⟩ := h
  have hnext := one_le_nextLow hrest
  cases hv : b.v with
  | true =>
    rw [hv, if_pos rfl, decide_eq_true_eq] at hhigh
    exact ⟨hl1, hl2, .inl ⟨hv, hhigh⟩, by simpa [WireBit.tail, hv] using hnext, hrest⟩
  | false =>
    rw [hv, if_neg Bool.false_ne_true, decide_eq_true_eq] at hhigh
    obtain ⟨hh, htail⟩ := hhigh
    exact ⟨hl1, hl2, .inr ⟨hv, hh⟩, by simpa [WireBit.tail, hv] using htail, hrest⟩

theorem tailSlots_singleton (c : Cfg) (b : WireBit) : tailSlots c [b] = b.tail c := rfl

theorem tailSlots_cons_cons (c : Cfg) (b b' : WireBit) (bs : List WireBit) :
    tailSlots c (b :: b' :: bs) = tailSlots c (b' :: bs) := by
  simp [tailSlots]

theorem WireBit.HighOk.one_le_tail {c : Cfg} {b : WireBit} (h : b.HighOk c) : 1 ≤ b.tail c := by
  unfold WireBit.tail
  obtain ⟨hv, -⟩ | ⟨hv, -, hhi⟩ := h
  · rw [hv, if_pos rfl]
  · rw [hv, if_neg Bool.false_ne_true]
    omega

/-- R130 (f), (g): the final low run is long enough for the last bit. -/
theorem tailSlots_le {c : Cfg} {z : Nat} (b : WireBit) (bs : List WireBit) (h : bitsAccepted c (b :: bs) z = true) :
    tailSlots c (b :: bs) ≤ z := by
  induction bs generalizing b with
  | nil =>
    obtain ⟨-, -, -, htail, -⟩ := bitsAccepted_cons h
    exact htail
  | cons b' bs ih =>
    obtain ⟨-, -, -, -, hrest⟩ := bitsAccepted_cons h
    rw [tailSlots_cons_cons]
    exact ih b' hrest

theorem lowRun_succ (n : Nat) : lowRun (n + 1) = false :: lowRun n := List.replicate_succ

theorem highRun_succ (n : Nat) : highRun (n + 1) = true :: highRun n := List.replicate_succ

theorem lowRun_cut {m n : Nat} (h : m ≤ n) : lowRun n = lowRun m ++ lowRun (n - m) := by
  rw [lowRun, lowRun, lowRun, ← List.replicate_add, Nat.add_sub_cancel' h]

/-- The high pulse of a bit and the low slots after it, cut into the last sample of `BIT_WAIT`, the delay whose last level is
the bit's value, and the polls of `BIT_END`. -/
theorem WireBit.HighOk.split {c : Cfg} {b : WireBit} (hl : c.legal = true) (h : b.HighOk c) :
    ∃ (d : List Bool) (n : Nat), d.length + 1 = c.nSample ∧ n < c.nBend
      ∧ highRun b.h ++ lowRun (b.tail c) = [true] ++ (d ++ [b.v]) ++ (List.replicate n true ++ [false]) := by
  have hsample : 1 ≤ c.nSample := (Cfg.legal_phaseBound hl .bitDelay).1
  have hbend : 1 ≤ c.nBend := (Cfg.legal_phaseBound hl .bitEnd).1
  obtain ⟨hv, hlo, hhi⟩ | ⟨hv, hlo, hhi⟩ := h
  · refine ⟨List.replicate (c.nSample - 1) true, b.h - (c.nSample + 1), by rw [List.length_replicate]; omega, by omega, ?_⟩
    have hh : b.h = 1 + (c.nSample - 1 + 1 + (b.h - (c.nSample + 1))) := by omega
    rw [WireBit.tail, hv, if_pos rfl, highRun, lowRun]
    nth_rw 1 [hh]
    simp only [List.replicate_add, List.replicate_one, List.append_assoc]
  · refine ⟨List.replicate (b.h - 1) true ++ List.replicate (c.nSample - b.h) false, 0, ?_, hbend, ?_⟩
    · rw [List.length_append, List.length_replicate, List.length_replicate]
      omega
    · have hh : b.h = 1 + (b.h - 1) := by omega
      have ht : c.nSample + 2 - b.h = c.nSample - b.h + 1 + 1 := by omega
      rw [WireBit.tail, hv, if_neg Bool.false_ne_true, ht, highRun, lowRun]
      nth_rw 1 [hh]
      simp only [List.replicate_add, List.replicate_one, List.append_assoc, List.replicate_zero, List.nil_append]

/-! ### One bit, and all of them -/

section Bits

variable {c : Cfg} {r : Regs}

/-- R120 to R122: from `BIT_WAIT`, with `k` low slots of the bit still to come, to the end of `BIT_END`. -/
theorem Reads.bit {b : WireBit} {k : Nat} (hl : c.legal = true) (hp : r.phase = .bitWait) (hcnt : r.cnt = 0)
    (hk : k < c.nBstart) (hb : b.HighOk c) :
    Reads c r (lowRun k ++ highRun b.h ++ lowRun (b.tail c))
      (nextBit (({ r with frame := shiftIn r.frame b.v, phase := .bitEnd, cnt := 0 } : Regs).atLine c false)).toRegs := by
  obtain ⟨d, n, hd, hn, hsplit⟩ := hb.split hl
  have hwait : Reads c r (lowRun k ++ [true]) { r with phase := .bitDelay, cnt := 0 } :=
    Reads.poll_follows (level := true) (e := .bitStartTimeout) hl (by rw [hp]; rfl) (by rw [hp]; trivial) hcnt
      (by rw [hp]; exact hk)
  have hdelay := Reads.delay (r := { r with phase := .bitDelay, cnt := 0 }) (ls := d) (l := b.v) hl rfl rfl rfl hd
  rw [Regs.leave_of_bitDelay (r := { r with phase := .bitDelay, cnt := d.length }) rfl] at hdelay
  have hend : Reads c { r with frame := shiftIn r.frame b.v, phase := .bitEnd, cnt := 0 } (List.replicate n true ++ [false])
      (nextBit (({ r with frame := shiftIn r.frame b.v, phase := .bitEnd, cnt := n } : Regs).atLine c false)).toRegs := by
    rw [← Regs.leave_of_bitEnd (r := { r with frame := shiftIn r.frame b.v, phase := .bitEnd, cnt := n }) rfl]
    exact Reads.poll (r := { r with frame := shiftIn r.frame b.v, phase := .bitEnd, cnt := 0 }) (e := .bitEndTimeout)
      hl rfl rfl hn
  rw [List.append_assoc (lowRun k), hsplit, List.append_assoc [true], ← List.append_assoc (lowRun k)]
  exact hwait.append (hdelay.append hend)

/-- R129, R130: all the bits that are still to come. -/
theorem Reads.bits {z : Nat} (hl : c.legal = true) (b : WireBit) (bs : List WireBit) (k : Nat) (hp : r.phase = .bitWait)
    (hcnt : r.cnt = 0) (hidx : r.bitidx.val + bs.length = 39) (hk : k < c.nBstart)
    (hacc : bitsAccepted c (b :: bs) z = true) :
    Reads c r (lowRun k ++ highRun b.h ++ bitRuns bs ++ lowRun (tailSlots c (b :: bs)))
      (Regs.judged c { r with frame := ((b :: bs).map WireBit.v).foldl shiftIn r.frame, bitidx := 39 }) := by
  induction bs generalizing b k r with
  | nil =>
    obtain ⟨-, -, hhigh, -, -⟩ := bitsAccepted_cons hacc
    have hbit := Reads.bit hl hp hcnt hk hhigh
    have hlast : r.bitidx = 39 := Fin.ext hidx
    rw [nextBit_of_last hidx] at hbit
    rw [tailSlots_singleton, bitRuns, List.append_nil, ← hlast]
    exact hbit
  | cons b' bs ih =>
    obtain ⟨-, -, hhigh, htail, hrest⟩ := bitsAccepted_cons hacc
    obtain ⟨-, hl2, -, -, -⟩ := bitsAccepted_cons hrest
    have hbit := Reads.bit hl hp hcnt hk hhigh
    rw [List.length_cons] at hidx
    have hlt : r.bitidx.val < 39 := by omega
    rw [nextBit_of_lt hlt] at hbit
    have hpos := hhigh.one_le_tail
    have hcut : lowRun b'.l = lowRun (b.tail c) ++ lowRun (b'.l - b.tail c) := lowRun_cut htail
    have hnext := ih (r := { r with frame := shiftIn r.frame b.v, bitidx := ⟨r.bitidx.val + 1, Nat.succ_lt_succ hlt⟩,
                                    phase := .bitWait, cnt := 0 }) b' (b'.l - b.tail c) rfl rfl
      (by show r.bitidx.val + 1 + bs.length = 39; omega) (by omega) hrest
    have h := hbit.append hnext
    rw [tailSlots_cons_cons, bitRuns, hcut]
    simp only [List.append_assoc] at h ⊢
    exact h

/-- R130: from the first slot to the end of the read. -/
theorem Reads.script {a p q z : Nat} {bits : List WireBit} (hlegal : c.legal = true) (hp : r.phase = .presResp)
    (hcnt : r.cnt = 0) (hidx : r.bitidx = 0) (hframe : r.frame = 0) (ha : a + 1 ≤ c.nResp) (hp1 : 1 ≤ p) (hp2 : p ≤ c.nPlow)
    (hq1 : 1 ≤ q) (hq2 : q ≤ c.nPhigh) (hlen : bits.length = 40) (hacc : bitsAccepted c bits z = true) :
    Reads c r (readScript a p q bits (tailSlots c bits))
      (Regs.judged c { r with frame := frameOfBits (bits.map WireBit.v), bitidx := 39 }) := by
  obtain ⟨b, bs, rfl⟩ : ∃ b bs, bits = b :: bs := List.exists_cons_of_length_pos (by omega)
  obtain ⟨hl1, hl2, -⟩ := bitsAccepted_cons hacc
  obtain ⟨p, rfl⟩ := Nat.exists_eq_add_of_le' hp1
  obtain ⟨q, rfl⟩ := Nat.exists_eq_add_of_le' hq1
  obtain ⟨l, hbl⟩ := Nat.exists_eq_add_of_le' hl1
  have hresp : Reads c r (highRun a ++ [false]) { r with phase := .presLow, cnt := 0 } :=
    Reads.poll_follows (level := false) (e := .noResponse) hlegal (by rw [hp]; rfl) (by rw [hp]; trivial) hcnt
      (by rw [hp]; exact ha)
  have hlow : Reads c { r with phase := .presLow, cnt := 0 } (lowRun p ++ [true]) { r with phase := .presHigh, cnt := 0 } :=
    Reads.poll_follows (r := { r with phase := .presLow, cnt := 0 }) (level := true) (e := .presenceLowTimeout) hlegal rfl
      trivial rfl hp2
  have hhigh : Reads c { r with phase := .presHigh, cnt := 0 } (highRun q ++ [false]) { r with phase := .bitWait, cnt := 0 } :=
    Reads.poll_follows (r := { r with phase := .presHigh, cnt := 0 }) (level := false) (e := .presenceHighTimeout) hlegal rfl
      trivial rfl hq2
  have hrest : r.bitidx.val + bs.length = 39 := by simpa [hidx] using hlen
  have hk : l < c.nBstart := by omega
  have hbits := Reads.bits (r := { r with phase := .bitWait, cnt := 0 }) hlegal b bs l rfl rfl hrest hk hacc
  have h := hresp.append (hlow.append (hhigh.append hbits))
  simp only [readScript, bitRuns, hbl, lowRun_succ, highRun_succ, List.append_assoc, List.cons_append, List.nil_append]
    at h ⊢
  rw [hframe] at h
  exact h

end Bits

/-! ### The length of the script -/

theorem length_bitRuns (bits : List WireBit) : (bitRuns bits).length = bitSlots bits := by
  induction bits with
  | nil => rfl
  | cons b bs ih => simp [bitRuns, bitSlots, lowRun, highRun, ih, Nat.add_assoc]

theorem length_readScript (a p q z : Nat) (bits : List WireBit) :
    (readScript a p q bits z).length = a + p + q + bitSlots bits + z := by
  simp only [readScript, lowRun, highRun, List.length_append, List.length_replicate, length_bitRuns]

/-- R129: the slots that a read of an accepted line uses up are its script with the final low run cut off. -/
theorem length_readScript_tail (c : Cfg) (a p q : Nat) (bits : List WireBit) :
    (readScript a p q bits (tailSlots c bits)).length = readSlots c a p q bits := length_readScript ..

theorem readScript_cut (a p q : Nat) (bits : List WireBit) {m n : Nat} (h : m ≤ n) :
    readScript a p q bits n = readScript a p q bits m ++ lowRun (n - m) := by
  rw [readScript, readScript, lowRun_cut h, List.append_assoc _ (lowRun m)]

/-! ### The obligations -/

/-- Settles O59: the accepting edge and the start pulse, then the script cut after the last slot the read uses. -/
theorem acceptedScriptsAreDecodedExactly : Obligations.AcceptedScriptsAreDecodedExactly := by
  intro s i pre line rest a p q z bits hl hr henv htick hstart hpre hline ha hp1 hp2 hq1 hq2 hlen hacc
  have henv' : s.env = i :: (pre ++ (line ++ rest)) := henv.trans (by simp)
  obtain ⟨htick1, htick2⟩ : allTicks (i :: pre) ∧ allTicks line := List.forall_mem_append.1 htick
  obtain ⟨t, hrun, hcfg, htenv, -, hregs, hmid⟩ := run_to_first_slot hl hr henv' htick1 hstart hpre
  have htail : tailSlots s.cfg bits ≤ z := by
    obtain ⟨b, bs, rfl⟩ : ∃ b bs, bits = b :: bs := List.exists_cons_of_length_pos (by omega)
    exact tailSlots_le b bs hacc
  have hplays : t.playsLine (readScript a p q bits (tailSlots s.cfg bits)) := by
    refine State.playsLine.of_append (ls' := lowRun (z - tailSlots s.cfg bits)) ?_
    rw [← readScript_cut a p q bits htail, ← hline]
    exact ⟨line, rest, htenv, htick2, rfl⟩
  have hread := Reads.script (r := t.toRegs) hl (by rw [hregs]) (by rw [hregs]) (by rw [hregs]; rfl) (by rw [hregs]; rfl)
    ha hp1 hp2 hq1 hq2 hlen hacc
  obtain ⟨⟨u, hrun', hu⟩, hmid'⟩ := hread.run hcfg rfl hl hplays
  rw [length_readScript_tail] at hrun' hmid'
  obtain ⟨hreading, hwatering, hframe, hidx, hmoist⟩ := validate_spec
    (Regs.atLine s.cfg { t.toRegs with frame := frameOfBits (bits.map WireBit.v), bitidx := 39 } false)
  have hm : t.moist.toNat = scaleRaw (i.raw % 2 ^ s.cfg.rawW) := by
    rw [hregs]
    exact toNat_ofNat_scaleRaw _
  have hw : t.watering = s.watering := by rw [hregs]; rfl
  have huframe : u.frame = frameOfBits (bits.map WireBit.v) := by rw [hu]; exact hframe
  refine ⟨u, _, ?_, huframe, ?_, (State.reading_congr hu).trans hreading, by rw [huframe]; rfl, ?_, ?_,
    busy_run_add hrun hmid hmid'⟩
  · rw [Nat.add_assoc 1, Nat.add_comm 1, run_add _ _ hrun, hrun']
  · rw [hu]
    exact congrArg Fin.val hidx
  · rw [hu]
    exact (congrArg BitVec.toNat hmoist).trans hm
  · rw [hu, ← hm, ← hw]
    exact hwatering

/-- The longest pulses that the bounds of a read allow (R128, R130). -/
def longestBit (c : Cfg) : WireBit := { v := true, l := c.nBstart, h := c.nSample + c.nBend }

theorem bitsAccepted_longest {c : Cfg} (hl : c.legal = true) (n : Nat) :
    bitsAccepted c (List.replicate n (longestBit c)) 1 = true := by
  have hbstart : 1 ≤ c.nBstart := (Cfg.legal_phaseBound hl .bitWait).1
  have hbend : 1 ≤ c.nBend := (Cfg.legal_phaseBound hl .bitEnd).1
  have hv : (longestBit c).v = true := rfl
  induction n with
  | zero => rfl
  | succ n ih =>
    rw [List.replicate_succ, bitsAccepted, ih, if_pos hv, Bool.and_true, Bool.and_eq_true, decide_eq_true_iff,
      decide_eq_true_iff]
    exact ⟨⟨hbstart, le_rfl⟩, Nat.add_le_add_left hbend _, le_rfl⟩

/-- R128: the slots of the longest read. -/
theorem readSlots_longest {c : Cfg} (hl : c.legal = true) :
    readSlots c (c.nResp - 1) c.nPlow c.nPhigh (List.replicate 40 (longestBit c)) = maxSlots c := by
  have hresp : 1 ≤ c.nResp := (Cfg.legal_phaseBound hl .presResp).1
  have hslots : bitSlots (List.replicate 40 (longestBit c)) = 40 * bitCost c := by
    rw [bitSlots, List.map_replicate, List.sum_replicate, smul_eq_mul, longestBit, bitCost, Nat.add_assoc]
  have htail : tailSlots c (List.replicate 40 (longestBit c)) = 1 := rfl
  rw [readSlots, hslots, htail, maxSlots]
  omega

/-- The longest script that the bounds of a read allow. -/
def longestScript (c : Cfg) : List Bool :=
  readScript (c.nResp - 1) c.nPlow c.nPhigh (List.replicate 40 (longestBit c)) 1

/-- Tick edges that show the levels `ls`, without `start`. -/
def playLine (ls : List Bool) : List Inputs := ls.map fun l => tickInputs false l 0

theorem length_playLine (ls : List Bool) : (playLine ls).length = ls.length := List.length_map _

theorem map_dq_playLine (ls : List Bool) : (playLine ls).map Inputs.dq = ls := by
  simp [playLine, tickInputs, Function.comp_def]

theorem allTicks_playLine (ls : List Bool) : allTicks (playLine ls) := by
  intro j hj
  obtain ⟨l, -, rfl⟩ := List.mem_map.1 hj
  rfl

/-- R128, R130: tick edges for the start pulse and for the longest script. -/
theorem exists_longest_read {c : Cfg} (hl : c.legal = true) :
    ∃ pre line, allTicks pre ∧ allTicks line ∧ pre.length = c.nStart + c.nSettle ∧ line.length = maxSlots c
      ∧ line.map Inputs.dq = longestScript c := by
  refine ⟨playLine (lowRun (c.nStart + c.nSettle)), playLine (longestScript c), allTicks_playLine _, allTicks_playLine _,
    ?_, ?_, map_dq_playLine _⟩
  · rw [length_playLine, lowRun, List.length_replicate]
  · rw [length_playLine, longestScript, length_readScript, ← readSlots_longest hl]
    rfl

/-- R32: only a state that shows a result denotes a reading. -/
theorem State.doneO_of_reading {s : State} {rd : Reading} (h : s.reading = some rd) : s.doneO = true := by
  by_contra hn
  obtain ⟨hd, hf⟩ : s.phase ≠ .done ∧ s.phase ≠ .failed := by simpa [State.doneO] using hn
  rw [State.reading_of_not_ended hd hf] at h
  cases h

/-- Settles O58: the longest pulses that the acceptance region allows use up every bound. -/
theorem theReadBoundIsReached : Obligations.TheReadBoundIsReached := by
  intro s hl hr
  obtain ⟨pre, line, htick1, htick2, hpre, hline, hdq⟩ := exists_longest_read hl
  have hresp : 1 ≤ s.cfg.nResp := (Cfg.legal_phaseBound hl .presResp).1
  have hplow : 1 ≤ s.cfg.nPlow := (Cfg.legal_phaseBound hl .presLow).1
  have hphigh : 1 ≤ s.cfg.nPhigh := (Cfg.legal_phaseBound hl .presHigh).1
  have htick : allTicks (tickInputs true true 0 :: (pre ++ line)) :=
    List.forall_mem_cons.2 ⟨rfl, List.forall_mem_append.2 ⟨htick1, htick2⟩⟩
  have hlen : (pre ++ line).length = s.cfg.nStart + s.cfg.nSettle + maxSlots s.cfg := by
    rw [List.length_append, hpre, hline]
  obtain ⟨t, rd, hrun, -, -, hread, -, -, -, hbusy⟩ := acceptedScriptsAreDecodedExactly
    { s with env := tickInputs true true 0 :: (pre ++ line) } (tickInputs true true 0) pre line [] (s.cfg.nResp - 1)
    s.cfg.nPlow s.cfg.nPhigh 1 (List.replicate 40 (longestBit s.cfg)) hl hr (by simp) htick rfl hpre hdq
    (Nat.sub_add_cancel hresp).le hplow le_rfl hphigh le_rfl List.length_replicate (bitsAccepted_longest hl 40)
  rw [readSlots_longest hl] at hrun hbusy
  refine ⟨tickInputs true true 0, pre ++ line, htick, rfl, hlen, hlen ▸ hbusy, t, ?_, State.doneO_of_reading hread⟩
  rw [hlen, Nat.add_comm, ← Nat.add_assoc, ← Nat.add_assoc]
  exact hrun

end Sys2Proof.Machine
end

section
/-! The statements of `spec/42_hysteresis_engine.md`. Two ideas carry them. Each of the four cases of `decide` (R161 to R164) is
one condition on the moisture and, if it is valid, the humidity, so every corner case and every row of the table follows
from its case's equation. And of the operations that make up an edge each either writes `err` with a value of its own or holds it,
and none branches on it (R166, R209). -/

namespace Sys2Proof.Machine

/-! ### The four cases of `decide` -/

section Engine

variable (c : Cfg) (m : Nat) (h : Byte) (e : OneWireError)

/-- R161: the onset condition. -/
theorem decideWatering_idle_valid :
    decideWatering c false m (.valid h) = decide (m < c.moistOnTh ∧ h.toNat < c.rhOnLimit) :=
  (Bool.decide_and _ _).symm

/-- R162: watering goes on as long as the release condition fails. -/
theorem decideWatering_watering_valid :
    decideWatering c true m (.valid h) = decide (m ≤ c.moistOffTh ∧ h.toNat ≤ c.rhOffLimit) := by
  rw [decideWatering_watering, release, ← Bool.decide_or, ← decide_not, decide_eq_decide, not_or, not_lt, not_lt]

/-- R163, R166: the onset condition of the degraded mode. -/
theorem decideWatering_idle_invalid : decideWatering c false m (.invalid e) = decide (m < c.moistOnTh) := rfl

/-- R164, R166: the degraded mode goes on by moisture alone. -/
theorem decideWatering_watering_invalid : decideWatering c true m (.invalid e) = decide (m ≤ c.moistOffTh) := by
  rw [decideWatering_watering, release, ← decide_not, decide_eq_decide, not_lt]

end Engine

section Conditions

variable {c : Cfg} {m : Nat} {rd : Reading}

/-- R161 and R163 in one: a humidity that is not valid blocks nothing. -/
theorem decideWatering_idle_iff :
    decideWatering c false m rd = true ↔ m < c.moistOnTh ∧ ∀ h, rd = .valid h → h.toNat < c.rhOnLimit := by
  cases rd with
  | valid h =>
    rw [decideWatering_idle_valid, decide_eq_true_iff]
    simp
  | invalid e =>
    rw [decideWatering_idle_invalid, decide_eq_true_iff]
    simp

/-- R162 and R164 in one: a humidity that is not valid releases nothing. -/
theorem decideWatering_watering_iff :
    decideWatering c true m rd = false ↔ m > c.moistOffTh ∨ ∃ h, rd = .valid h ∧ h.toNat > c.rhOffLimit := by
  cases rd with
  | valid h =>
    rw [decideWatering_watering_valid, decide_eq_false_iff_not, not_and_or, not_le, not_le]
    simp
  | invalid e =>
    rw [decideWatering_watering_invalid, decide_eq_false_iff_not, not_le]
    simp

/-- R173: inside the dead-bands neither exit condition holds. -/
theorem decideWatering_of_deadBand (hon : c.moistOnTh ≤ m) (hoff : m ≤ c.moistOffTh)
    (hrh : ∀ h, rd = .valid h → h.toNat ≤ c.rhOffLimit) (w : Bool) : decideWatering c w m rd = w := by
  cases w with
  | false =>
    rw [← Bool.not_eq_true, decideWatering_idle_iff]
    exact fun ⟨hm, _⟩ => absurd hm hon.not_gt
  | true =>
    rw [← Bool.not_eq_false, decideWatering_watering_iff]
    rintro (hm | ⟨h, hrd, hh⟩)
    · exact absurd hm hoff.not_gt
    · exact absurd hh (hrh h hrd).not_gt

end Conditions

/-- A DECIDE row that runs stores its decision and nothing else. -/
theorem underLegal_latchWatering {s : State} (hl : s.cfg.legal = true) {v w : Bool} (h : v = w) :
    underLegal s (latchWatering v s) = .next { s with watering := w } := h ▸ underLegal_of_legal hl _

/-! ### The error code -/

/-- The same state with another code in `err`. -/
def State.withErr (s : State) (e : Option OneWireError) : State := { s with err := e }

/-- At `s` the operation `f` writes `err`, the same whatever stood there, or holds it; and the code has no other effect. -/
def ErrUnread (s : State) (f : State → State) : Prop :=
  (∀ e, f (s.withErr e) = f s) ∨ ∀ e, f (s.withErr e) = (f s).withErr e

/-- The rule of a phase, so that an argument can go phase by phase (R111). -/
def Phase.rule (start : Bool) : Phase → State → State
  | .idle | .done | .failed => restRule start
  | .startLow => startLowRule
  | .startSettle => startSettleRule
  | .presResp => presRespRule
  | .presLow => presLowRule
  | .presHigh => presHighRule
  | .bitWait => bitWaitRule
  | .bitDelay => bitDelayRule
  | .bitEnd => bitEndRule

theorem tickRule_eq_rule (start : Bool) (s : State) : tickRule start s = s.phase.rule start s := by
  unfold tickRule
  cases s.phase <;> rfl

section ErrUnread

variable {s : State} {f g : State → State}

/-- A branch that is taken with every code alike. -/
theorem ErrUnread.of_eq (hg : ErrUnread s g) (h : ∀ e, f (s.withErr e) = g (s.withErr e)) : ErrUnread s f := by
  have hs : f s = g s := h s.err
  simpa only [ErrUnread, h, hs] using hg

theorem errUnread_bump : ErrUnread s bump := .inr fun _ => rfl

theorem errUnread_goto (p : Phase) : ErrUnread s (goto p) := .inr fun _ => rfl

theorem errUnread_takeSample (b : Bool) : ErrUnread s (takeSample b) := .inr fun _ => rfl

theorem errUnread_accept (r : Nat) : ErrUnread s (accept r) := .inl fun _ => rfl

theorem errUnread_complete (h : Byte) : ErrUnread s (complete h) := .inl fun _ => rfl

theorem errUnread_raise (e : OneWireError) : ErrUnread s (raise e) := .inl fun _ => rfl

theorem errUnread_resetRegs : ErrUnread s resetRegs := .inl fun _ => rfl

theorem errUnread_id : ErrUnread s id := .inr fun _ => rfl

theorem ErrUnread.wait {next : State → State} (hn : ErrUnread s next) (level : Bool) (n : Nat) (err : OneWireError) :
    ErrUnread s (wait level n next err) := by
  by_cases hl : lineSample s = level
  · exact hn.of_eq fun _ => if_pos hl
  · by_cases hc : s.cnt = n - 1
    · exact (errUnread_raise err).of_eq fun _ => (if_neg hl).trans (if_pos hc)
    · exact errUnread_bump.of_eq fun _ => (if_neg hl).trans (if_neg hc)

theorem ErrUnread.delay {next : State → State} (hn : ErrUnread s next) (n : Nat) : ErrUnread s (delay n next) := by
  by_cases hc : s.cnt = n - 1
  · exact hn.of_eq fun _ => if_pos hc
  · exact errUnread_bump.of_eq fun _ => if_neg hc

theorem errUnread_validate : ErrUnread s validate := by
  by_cases hk : checksumOk s.frame = true
  · exact (errUnread_complete (frameByte s.frame 0)).of_eq fun _ => if_pos hk
  · exact (errUnread_raise .checksumMismatch).of_eq fun _ => if_neg hk

theorem errUnread_nextBit : ErrUnread s nextBit := by
  by_cases hb : s.bitidx.val < 39
  · refine .inr fun e => ?_
    rw [nextBit_of_lt hb, nextBit_of_lt (s := s.withErr e) hb]
    rfl
  · exact errUnread_validate.of_eq fun _ => dif_neg hb

theorem errUnread_restRule (start : Bool) : ErrUnread s (restRule start) := by
  cases start with
  | false => exact errUnread_id
  | true => exact errUnread_accept (rawPort s)

/-- R209: the rule of no phase reads `err`. -/
theorem errUnread_rule (start : Bool) (p : Phase) : ErrUnread s (p.rule start) := by
  cases p with
  | idle | done | failed => exact errUnread_restRule start
  | startLow => exact ((errUnread_goto .startSettle).delay s.cfg.nStart).of_eq fun _ => rfl
  | startSettle => exact ((errUnread_goto .presResp).delay s.cfg.nSettle).of_eq fun _ => rfl
  | presResp => exact ((errUnread_goto .presLow).wait false s.cfg.nResp .noResponse).of_eq fun _ => rfl
  | presLow => exact ((errUnread_goto .presHigh).wait true s.cfg.nPlow .presenceLowTimeout).of_eq fun _ => rfl
  | presHigh => exact ((errUnread_goto .bitWait).wait false s.cfg.nPhigh .presenceHighTimeout).of_eq fun _ => rfl
  | bitWait => exact ((errUnread_goto .bitDelay).wait true s.cfg.nBstart .bitStartTimeout).of_eq fun _ => rfl
  | bitDelay => exact ((errUnread_takeSample (lineSample s)).delay s.cfg.nSample).of_eq fun _ => rfl
  | bitEnd => exact (errUnread_nextBit.wait false s.cfg.nBend .bitEndTimeout).of_eq fun _ => rfl

theorem errUnread_tickRule (start : Bool) : ErrUnread s (tickRule start) :=
  (errUnread_rule start s.phase).of_eq fun e => tickRule_eq_rule start (s.withErr e)

/-- The end of an edge neither reads nor writes `err`. -/
theorem ErrUnread.endEdge (hf : ErrUnread s f) : ErrUnread s fun u => endEdge (f u) :=
  hf.imp (fun h e => congrArg Machine.endEdge (h e)) fun h e => congrArg Machine.endEdge (h e)

/-- Which operation an edge runs does not depend on the code (R8). -/
theorem exists_errUnread_step (hl : s.cfg.legal = true) :
    ∃ f, ErrUnread s f ∧ ∀ e, step (s.withErr e) = .next (f (s.withErr e)) := by
  cases hr : s.inputs.rst with
  | true => exact ⟨_, errUnread_resetRegs.endEdge, fun e => step_reset (s := s.withErr e) hl hr⟩
  | false =>
    cases ht : s.inputs.tick with
    | false => exact ⟨_, errUnread_id.endEdge, fun e => step_hold (s := s.withErr e) hl hr ht⟩
    | true =>
      exact ⟨_, (errUnread_tickRule (startPort s)).endEdge, fun e => step_tick (s := s.withErr e) hl ⟨hr, ht⟩⟩

end ErrUnread

/-! ### The obligations -/

/-- Settles O31, by induction on the evaluations; the gap between two thresholds that are both crossed is arithmetic. -/
theorem noChatterInsideTheDeadBands : Obligations.NoChatterInsideTheDeadBands := by
  constructor
  · intro c w evs _ _ hevs
    induction evs with
    | nil => rfl
    | cons ev evs ih =>
      obtain ⟨⟨hon, hoff, hrh⟩, hrest⟩ := List.forall_mem_cons.1 hevs
      rw [List.foldl_cons, decideWatering_of_deadBand hon hoff hrh]
      exact ih hrest
  · intro c m m' rd rd' hth hon hoff
    obtain ⟨hm, -⟩ := decideWatering_idle_iff.1 hon
    exact ⟨hm, decideWatering_watering_iff.1 hoff, fun hm' => by omega⟩

/-- Settles O47: an edge that writes `err` answers the same state, and an edge that holds it keeps the code. -/
theorem errorCodeIsReadByNoRule : Obligations.ErrorCodeIsReadByNoRule := by
  intro s t hs
  obtain ⟨f, hf, hstep⟩ := exists_errUnread_step (step_cases hs).1
  obtain rfl : f s = t := by
    have hself : step s = .next (f s) := hstep s.err
    rw [hs] at hself
    injection hself with ht
    exact ht.symm
  rcases hf with hwrite | hhold
  · exact .inl fun e => (hstep e).trans (congrArg _ (hwrite e))
  · have hkeep : f s = (f s).withErr s.err := hhold s.err
    have herr : (f s).err = s.err := by
      rw [hkeep]
      rfl
    exact .inr ⟨herr, fun e => (hstep e).trans (congrArg _ (hhold e))⟩

/-- Settles O27: the corner cases follow from R161's condition. -/
theorem decideIdleValidOnset : Obligations.DecideIdleValidOnset := by
  refine ⟨fun s m h hl => underLegal_latchWatering hl (decideWatering_idle_valid _ _ _), fun h => ?_, fun h => ?_,
    fun m h hh => ?_, by decide⟩ <;> rw [decideWatering_idle_valid]
  · exact decide_eq_false fun ⟨hm, _⟩ => absurd hm (by decide)
  · rw [decide_eq_decide]
    exact ⟨fun ⟨_, hh⟩ => Nat.le_of_lt_succ hh, fun hh => ⟨by decide, Nat.lt_succ_of_le hh⟩⟩
  · exact decide_eq_false fun ⟨_, hlt⟩ => absurd hlt hh.not_gt

/-- Settles O28: the corner cases follow from R162's condition, and in the humidity dead-band R161's fails too. -/
theorem decideWateringValidRelease : Obligations.DecideWateringValidRelease := by
  refine ⟨fun s m h hl => underLegal_latchWatering hl ?_, fun h => ?_, fun h => ?_, fun m h hm hlo hhi => ⟨?_, ?_⟩,
    by decide, by decide, by decide⟩
  · rw [decideWatering_watering, release, Bool.decide_or]
  · rw [decideWatering_watering_valid, decide_eq_decide]
    exact and_iff_right (by decide)
  · rw [decideWatering_watering_valid]
    exact decide_eq_false fun ⟨hm, _⟩ => absurd hm (by decide)
  · rw [decideWatering_watering_valid]
    exact decide_eq_true ⟨hm, hhi⟩
  · rw [decideWatering_idle_valid]
    exact decide_eq_false fun ⟨_, hlt⟩ => absurd hlt hlo.not_gt

/-- Settles O29: neither equation of the degraded mode mentions the error, and the rows hand on no other field. -/
theorem decideDegradedModeUsesMoistureAlone : Obligations.DecideDegradedModeUsesMoistureAlone :=
  ⟨fun _ _ _ hl => ⟨underLegal_latchWatering hl (decideWatering_idle_invalid _ _ _), underLegal_latchWatering hl rfl⟩,
    fun c m e => ⟨decideWatering_idle_invalid c m e, rfl⟩, by decide, by decide, by decide, by decide, by decide⟩

/-- Settles O30: the ten rows are the four cases at the thresholds of the table. -/
theorem decideFollowsTheCompleteTable : Obligations.DecideFollowsTheCompleteTable := by
  refine ⟨fun c m rd => ⟨decideWatering_idle_iff, decideWatering_watering_iff⟩, ?_⟩
  intro c m h e hon hoff hrhOn hrhOff
  rw [decideWatering_idle_valid, decideWatering_idle_invalid, decideWatering_watering_valid,
    decideWatering_watering_invalid, hon, hoff, hrhOn, hrhOff]
  simp only [decide_eq_true_eq, decide_eq_false_iff_not]
  omega

end Sys2Proof.Machine
end

section
/-! The statements of `spec/43_actuation_sink.md`. One idea carries them: the level on `act_o` is a function of the configuration
and of `watering` alone (R180), so the sink has no memory of its own, and `act_o` can change only where `watering` does: at reset
and at the tick edge that ends a read. -/

namespace Sys2Proof.Machine

/-! ### The sink -/

/-- R181: the sink keeps nothing of the level it showed before. -/
@[simp] theorem driveAct_driveAct (v w : Bool) (s : State) : driveAct v (driveAct w s) = driveAct v s := rfl

theorem exec_apply {s : State} (hl : s.cfg.legal = true) (w : BitVec 1) :
    exec (.apply w) s = .next (driveAct (w.getLsbD 0) s) :=
  underLegal_of_legal hl _

/-- R180: the port depends on the configuration and on `watering` alone. -/
theorem State.actO_congr {s t : State} (hc : t.cfg = s.cfg) (hw : t.watering = s.watering) : t.actO = s.actO := by
  rw [State.actO, State.actO, hc, hw]

/-- R187: of the results of a tick edge only the end of a read can have another `watering`. -/
theorem TickCase.endsRead_or_watering_eq {b : Bool} {s t : State} (h : TickCase b s t) :
    s.endsRead t ∨ t.watering = s.watering := by
  cases h with
  | good hp | bad hp => exact .inl ⟨congrArg Phase.busy hp, rfl⟩
  | timeout l e haw => exact .inl ⟨Phase.busy_of_awaits haw, rfl⟩
  | rest | accept | count | move | sample | bit => exact .inr rfl

/-- R182 at a tick edge. -/
theorem endsRead_or_actO_tickRule_eq (b : Bool) (s : State) :
    s.endsRead (tickRule b s) ∨ (tickRule b s).actO = s.actO := by
  obtain ⟨hcfg, -⟩ := tickRule_frame b s
  exact (tickRule_cases b s).endsRead_or_watering_eq.imp_right (State.actO_congr hcfg)

/-! ### The obligations -/

/-- Settles O46: reset clears `watering`, whose level is then `ACT_INVERT`; a hold edge keeps it, and so does a tick edge that
ends no read. -/
theorem actOutputChangesOnlyWithADecision : Obligations.ActOutputChangesOnlyWithADecision := by
  intro s s' hstep
  obtain ⟨-, ⟨hr, rfl⟩ | ⟨hr, -, rfl⟩ | ⟨ht, rfl⟩⟩ := step_cases hstep
  · exact ⟨fun _ => Bool.false_xor _, fun hr' => absurd hr (Bool.eq_false_iff.1 hr')⟩
  · exact ⟨fun hr' => absurd hr' (Bool.eq_false_iff.1 hr), fun _ hchange => absurd rfl hchange⟩
  · exact ⟨fun hr' => absurd hr' (Bool.eq_false_iff.1 ht.1), fun _ hchange =>
      ⟨ht, (endsRead_or_actO_tickRule_eq _ s).resolve_right hchange⟩⟩

/-- Settles O36: a second APPLY overwrites the level of the first with the same one. -/
theorem applyIsIdempotent : Obligations.ApplyIsIdempotent := by
  intro s w hl
  refine ⟨exec_apply hl w, fun t ht => ?_⟩
  obtain rfl : driveAct (w.getLsbD 0) s = t := by
    rw [exec_apply hl w] at ht
    injection ht
  rw [exec_apply (s := driveAct (w.getLsbD 0) s) hl w, driveAct_driveAct]

end Sys2Proof.Machine
end

section
/-! The statements of `spec/44_cycle_sequencer.md`: the two latches of a cycle. `moist` is written where a rest phase accepts
`start`, the only edge that reads `raw` (R186), and `watering` where a read ends, from the reading that edge produces (R187).
Both are read off the cases of a tick edge. -/

namespace Sys2Proof.Machine

/-! ### Latching the moisture -/

/-- R186 at a tick edge that accepts `start`. -/
theorem tickRule_moist_of_accept {s : State} (hrest : s.phase.busy = false) :
    (tickRule true s).moist.toNat = scaleRaw (rawPort s) := by
  rw [tickRule_rest hrest, if_pos rfl, accept_moist, toNat_ofNat_scaleRaw]

/-- R186 at every other tick edge. -/
theorem tickRule_moist_of_not_accept {b : Bool} {s : State} (h : ¬ (s.phase.busy = false ∧ b = true)) :
    (tickRule b s).moist = s.moist :=
  (tickRule_cases b s).accept_or_moist_eq.resolve_left fun ⟨hrest, hb, _⟩ => h ⟨hrest, hb⟩

/-- R112: a rest phase without `start` holds every register, so its edge reads no other port. -/
theorem step_rest_hold {s : State} (hl : s.cfg.legal = true) (ht : s.atTick) (hrest : s.phase.busy = false)
    (hstart : startPort s = false) : step s = .next (endEdge s) := by
  rw [step_tick hl ht, tickRule_rest hrest, hstart, if_neg Bool.false_ne_true]

/-- R186, R188: the edge that holds a rest phase is the same for every value on `raw`. -/
theorem step_rest_ignores_raw {s : State} {i : Inputs} (hr : i.rst = false) (ht : i.tick = true)
    (hrest : s.phase.busy = false) (hstart : i.start = false) (r : Nat) (e : List Inputs) :
    step { s with env := i :: e } = step { s with env := { i with raw := r } :: e } := by
  refine step_congr_of_legal rfl fun hl => ?_
  calc step { s with env := i :: e }
      = .next (endEdge { s with env := i :: e }) := step_rest_hold hl ⟨hr, ht⟩ hrest hstart
    _ = .next (endEdge { s with env := { i with raw := r } :: e }) := rfl
    _ = step { s with env := { i with raw := r } :: e } :=
      (step_rest_hold (s := { s with env := { i with raw := r } :: e }) hl ⟨hr, ht⟩ hrest hstart).symm

/-! ### Latching the decision -/

/-- R36: a phase that is over moves on to another phase of the read, and ends it in no case. -/
theorem Phase.busy_of_follows {p q : Phase} (h : p.follows q) : q.busy = true := by
  obtain ⟨-, hq⟩ | ⟨-, rfl⟩ | ⟨-, rfl⟩ := Phase.follows_cases h
  · exact Phase.busy_of_preBit hq
  · rfl
  · rfl

/-- R187: a tick edge that ends a read produces a reading and decides by it; a valid one is byte 0 of a frame with a right
checksum. -/
theorem TickCase.decision_of_endsRead {b : Bool} {s t : State} (h : TickCase b s t) (hend : s.endsRead t) :
    ∃ rd, t.reading = some rd ∧ t.watering = decideWatering s.cfg s.watering s.moist.toNat rd
      ∧ ∀ hum, rd = .valid hum → hum = frameByte s.frame 0 ∧ checksumOk s.frame = true := by
  obtain ⟨hbusy, hrest⟩ := hend
  cases h with
  | good _ _ _ hk => exact ⟨.valid (frameByte s.frame 0), rfl, rfl, fun _ hv => ⟨(Reading.valid.inj hv).symm, hk⟩⟩
  | bad => exact ⟨.invalid .checksumMismatch, rfl, rfl, nofun⟩
  | timeout _ e => exact ⟨.invalid e, rfl, rfl, nofun⟩
  | rest h | accept h => exact absurd hbusy (Bool.eq_false_iff.1 h)
  | count => exact absurd hbusy (Bool.eq_false_iff.1 hrest)
  | move _ hp => exact absurd (Phase.busy_of_follows hp) (Bool.eq_false_iff.1 hrest)
  | sample | bit => cases hrest

/-! ### The obligations -/

/-- Settles O44: a hold edge keeps `moist`, and a tick edge writes it only on acceptance. `raw` stays unread at a reset or hold
edge, in a busy phase, and in a rest phase without `start`. -/
theorem moistureLatchedOnlyAtAcceptance : Obligations.MoistureLatchedOnlyAtAcceptance := by
  refine ⟨fun s s' hstep hrst => ?_, fun s i r e hnot => ?_⟩
  · obtain ⟨-, ⟨hr, -⟩ | ⟨-, hhold, rfl⟩ | ⟨ht, rfl⟩⟩ := step_cases hstep
    · exact absurd hr (Bool.eq_false_iff.1 hrst)
    · exact ⟨fun ⟨⟨_, htick⟩, _⟩ => absurd htick (Bool.eq_false_iff.1 hhold), fun _ => rfl⟩
    · refine ⟨fun ⟨_, hrest, hstart⟩ => ?_, fun hnot => ?_⟩
      · rw [hstart]
        exact tickRule_moist_of_accept hrest
      · exact tickRule_moist_of_not_accept fun hacc => hnot ⟨ht, hacc⟩
  · obtain ⟨hreset, hhold⟩ := resetAndHoldIgnoreOtherInputs s i { i with raw := r } e
    by_cases hr : i.rst = true
    · exact hreset hr hr
    have hr' : i.rst = false := Bool.eq_false_of_not_eq_true hr
    by_cases ht : i.tick = true
    · by_cases hb : s.phase.busy = true
      · exact startAndRawIgnoredWhileBusy s i i.start r e hb
      · have hb' : s.phase.busy = false := Bool.eq_false_of_not_eq_true hb
        have hstart : i.start = false := Bool.eq_false_iff.2 fun h => hnot ⟨hr', ht, hb', h⟩
        exact step_rest_ignores_raw hr' ht hb' hstart r e
    · have ht' : i.tick = false := Bool.eq_false_of_not_eq_true ht
      exact hhold hr' hr' ht' ht'

/-- Settles O45: a hold edge ends no read and keeps `watering`; at a tick edge it is one of the cases of `TickCase`. -/
theorem wateringDecidedOnlyAtTheEndOfARead : Obligations.WateringDecidedOnlyAtTheEndOfARead := by
  intro s s' hstep hrst
  obtain ⟨-, ⟨hr, -⟩ | ⟨-, -, rfl⟩ | ⟨-, rfl⟩⟩ := step_cases hstep
  · exact absurd hr (Bool.eq_false_iff.1 hrst)
  · exact ⟨fun ⟨hbusy, hrest⟩ => absurd hbusy (Bool.eq_false_iff.1 hrest), fun _ => rfl⟩
  · have hcase := tickRule_cases (startPort s) s
    exact ⟨hcase.decision_of_endsRead, hcase.endsRead_or_watering_eq.resolve_left⟩

end Sys2Proof.Machine
end

section
/-! The statements of `spec/60_exceptions.md`. `raise` is the one error entry (R207), so the six error rows differ in the error
alone; and what a step can do to a rest phase leaves two ways out of `FAILED` (R208): reset and acceptance. -/

namespace Sys2Proof.Machine

/-! ### The error entry -/

/-- R207, R76: after an error the word is the error code above a humidity of 0. -/
theorem resultWord_afterError (s : State) (e : OneWireError) :
    (s.afterError e).resultWord = BitVec.ofNat 12 (0x100 * (errCode (some e)).toNat) := by
  have hvalid : (s.afterError e).validO.toNat = 0 := rfl
  have hcode : (s.afterError e).errO = errCode (some e) := rfl
  have hhum : (s.afterError e).hum.toNat = 0 := rfl
  have hword : (s.afterError e).resultWord.toNat = 0x100 * (errCode (some e)).toNat := by
    rw [toNat_resultWord, hvalid, hcode, hhum]
    omega
  rw [← hword, BitVec.ofNat_toNat, BitVec.setWidth_eq]

/-! ### The error return -/

/-- Everything an edge can do to a rest phase (R8, R112): reset, accept, or hold every register. -/
theorem step_rest_cases {s s' : State} (h : step s = .next s') (hrest : s.phase.busy = false) :
    (s.inputs.rst = true ∧ s' = endEdge (resetRegs s))
      ∨ (s.atTick ∧ startPort s = true ∧ s' = endEdge (accept (rawPort s) s)) ∨ s' = endEdge s := by
  obtain ⟨-, hreset | ⟨-, -, hhold⟩ | ⟨htick, hs'⟩⟩ := step_cases h
  · exact .inl hreset
  · exact .inr (.inr hhold)
  · rw [tickRule_rest hrest] at hs'
    by_cases hstart : startPort s = true
    · exact .inr (.inl ⟨htick, hstart, by rw [hs', if_pos hstart]⟩)
    · exact .inr (.inr (by rw [hs', if_neg hstart]))

/-! ### The obligations -/

/-- Settles O50: `FAILED` is a rest phase. -/
theorem failedIsLeftOnlyByStartOrReset : Obligations.FailedIsLeftOnlyByStartOrReset := by
  intro s s' hstep hfailed
  have hrest : s.phase.busy = false := by rw [hfailed]; rfl
  obtain ⟨hrst, rfl⟩ | ⟨htick, hstart, rfl⟩ | rfl := step_rest_cases hstep hrest
  · exact .inl ⟨hrst, rfl, rfl⟩
  · exact .inr (.inl ⟨htick, hstart, rfl, rfl⟩)
  · exact .inr (.inr ⟨hfailed, rfl, rfl, rfl, rfl⟩)

/-- Settles O20: every error row is `raise` under the guard, and the word is read off the code. -/
theorem errorRowsTakeTheirError : Obligations.ErrorRowsTakeTheirError := by
  intro s hl
  have hraise : ∀ e, underLegal s (raise e s) = .next (s.afterError e) := fun e => underLegal_of_legal hl _
  have hword := resultWord_afterError s
  exact ⟨⟨hraise _, hraise _, hraise _, hraise _, hraise _, hraise _⟩, ⟨rfl, hword _⟩, ⟨rfl, hword _⟩, ⟨rfl, hword _⟩,
    ⟨rfl, hword _⟩, ⟨rfl, hword _⟩, ⟨rfl, hword _⟩, fun _ => ⟨rfl, rfl, rfl, rfl, rfl⟩⟩

end Sys2Proof.Machine
end

section
/-! The statements of `spec/70_reset_and_hazards.md`: what a reset edge leaves (R230, R231), and what every edge leaves beside the
registers (R240). -/

namespace Sys2Proof.Machine

/-! ### The reset edge -/

/-- R39, R180: `Idle` stands on `act_o` as `ACT_INVERT` itself. -/
theorem applySink_idle (c : Cfg) : applySink c false = c.actInvert := Bool.false_xor _

/-- R230, R231: of the old state a reset edge keeps only the configuration and the model's own record of inputs. -/
theorem endEdge_resetRegs (s : State) :
    endEdge (resetRegs s) =
      { cfg := s.cfg, phase := .idle, cnt := 0, bitidx := 0, frame := 0, hum := 0, err := none, moist := 0,
        watering := false, act := s.cfg.actInvert, env := s.env.tail, edge := s.edge + 1 } := by
  rw [← applySink_idle s.cfg]
  rfl

/-! ### The obligations -/

/-- Settles O7: the edge is reset of the registers followed by the end of every edge, which shows `Idle`. -/
theorem resetEdgeClearsEveryRegister : Obligations.ResetEdgeClearsEveryRegister := by
  intro s hl hrst
  rw [step_reset hl hrst, endEdge_resetRegs]

/-- Settles O39: no operation of an edge writes these fields, and the end of the edge writes all but the configuration. -/
theorem configurationConstantAndSinkFollows : Obligations.ConfigurationConstantAndSinkFollows :=
  fun _ _ hstep => step_frame hstep

end Sys2Proof.Machine
end
